-- ==== Sys2Proof/Word.lean ====
section
/-! DEFINITION. The fixed-width words that the Nuvilo ND464 holds and exchanges with its hosts. -/

namespace Sys2Proof

/-- One byte of a link transaction (R155). -/
abbrev Byte := BitVec 8

/-- A 16-bit count: generation, fire count, missed periods, seq, holdoff (R1, R123, R125). -/
abbrev Half := BitVec 16

/-- A 32-bit quantity: tag, period, delay, limit, remaining, a notice's value (R1, R38, R123). -/
abbrev Word := BitVec 32

/-- A value of the 64-bit time count (R83): every deadline, timestamp and event time. -/
abbrev TimeCount := BitVec 64

end Sys2Proof
end

