-- ==== Sys2Proof/Config.lean ====
section
/-! DEFINITION. The sizes the spec fixes for the part, and the two values a board decides that
`State.reset` needs (notes/assumptions/3.md and 4.md). -/

namespace Sys2Proof.Config

/-- The greatest time count, 2^64−1 (R83). -/
def timeMax : Nat := 2 ^ 64 - 1

/-- The greatest 32-bit quantity, 2^32−1. -/
def wordMax : Nat := 2 ^ 32 - 1

/-- The greatest 16-bit count, 65535. -/
def halfMax : Nat := 65535

/-- The greatest lost-edge count, 255 (R102). -/
def lostMax : Nat := 255

/-- Places in a port's notice list that ordinary notices may take; one more is kept for OVERFLOW (R127). -/
def ordinaryNotices : Nat := 31

/-- Edge records the edge FIFO holds (R106). -/
def fifoDepth : Nat := 16

/-- Slots that one input line's binding list holds (R115). -/
def bindingMax : Nat := 8

/-- A teardown takes at most this many operations after its first step: the freeing of authority, one removal and one
release for each slot, the release of each output line, and the last step (R164). -/
def teardownOps : Nat := 138

/-- DESIGN CHOICE (unsafe; notes/assumptions/3.md): the strap pins as sampled before `State.reset`,
QS1 in bit 1 and QS0 in bit 0. The spec leaves them to the board (R7). -/
def resetStraps : BitVec 2 := 0#2

end Sys2Proof.Config
end

