-- ==== Sys2Proof/Syntax.lean ====
section
/-! DEFINITION. The commands of the part: one constructor of `Instr` for each row of
spec/opcode_table.json. A row is a step of the part, whole and indivisible: a request the Request
Engine executes, a link transaction at its take point, an event on a pin, or an event inside the part. -/

namespace Sys2Proof

/-- A host port, HP0 to HP3. -/
abbrev PortNo := Fin 4

/-- A timer slot, 0 to 63. -/
abbrev SlotNo := Fin 64

/-- An input line IL0 to IL7 or an output line OL0 to OL7. -/
abbrev LineNo := Fin 8

/-- The two blocks whose operation on a FIRING slot waits for the end of the firing (R6). -/
inductive Client where
  /-- The Request Engine, with a request or a teardown. -/
  | engine
  /-- The Line Monitor, with an edge application. -/
  | lineMonitor
  deriving DecidableEq, Repr

/-- How far a step carries the firing in progress after its take: its second stage, the notices, may stand
between two deliveries, and its third stage, the output action, comes after the last, and in one step with a
delivery that a host can see (R72 to R74). -/
inductive FiringStage where
  /-- The copies still due to these ports are delivered; bit `q` of `ports` is HPq. With one of them arriving in a
  queue while the output action is due, this is `action`. -/
  | copies (ports : BitVec 4)
  /-- Every copy still due is delivered, and the output action, when still due, is applied. -/
  | action
  deriving DecidableEq, Repr

/-- The six link transactions, each opened by its selector byte (R156, R170). -/
inductive Selector where
  | submit
  | fetch
  | peek
  | ack
  | time
  | portstat
  deriving DecidableEq, Repr

/-- The commands. The 22 requests carry no operands of their own: a request's operands are the
parameter bytes of the frame the engine has in hand (R141, R158, R171), which SUBMIT brought in.

`pause`: where a step carries out a teardown, other events may meet the teardown between two of its
operations (R5, R165). `none` runs the teardown on until it ends or waits; `some k` gives the others their turn
after `k` operations, and SECOND_STAGE_OPERATION goes on with the rest. The operations counted are those after the
teardown's first step: the freeing of an authority held, each watcher removal, each release of a slot, each release
of an output line, and the last step (R164).

`pins`: the levels of IL7 to IL0 at a REFCLK rising edge, bit `i` for ILi, `true` for HIGH (R103).

`early`: the edges of the lines below it that wait to be recognized at this REFCLK edge are taken first: at a
tick event, before the advance of the time count (R103); where a record leaves the edge FIFO, before its place
is offered to the owed lines (R108). The others are taken after it.

`tickLater`: at a REFCLK edge that is a tick event, the synchronizers sample and the tick is left to a TICK_EVENT,
since the tick may be taken after recognitions of its edge, and after other operations that meet it (R84, R103).

`doneFirst`: whether a SLEW_DONE that a tick builds arrives before the holdoff counters count the tick (R135).

`upTo`: how far TAKE_HEAD and SETTLING carry the firing, since other operations may come between two of its
stages (R77). A SETTLING with `none` carries it through the settling.

`early`, `tickLater` and `upTo` may be left out where no edge waits and no other operation comes between. -/
inductive Instr where
  -- requests, executed by the Request Engine on the port it has granted
  | openSession
  | closeSession (pause : Option Nat)
  | reserve
  | release
  | setShare
  | watch
  | unwatch
  | query
  | giveQuota
  | configure
  | arm
  | disarm
  | takeAuthority
  | yieldAuthority
  | stepTime
  | slew
  | cancelSlew
  | setDivisor
  | claimOutput
  | driveOutput
  | releaseOutput
  | setAttention
  -- link transactions of one host port
  /-- `bytes`: what the host sends after the selector: request code, length byte, parameter bytes. -/
  | submit (port : PortNo) (bytes : List Byte)
  | fetch (port : PortNo)
  | fetchEnd (port : PortNo)
  | peek (port : PortNo) (offset : Byte)
  /-- `seq`: the two seq bytes, in the order in which the host sends them. -/
  | ack (port : PortNo) (seq : Byte × Byte)
  | time (port : PortNo)
  | portstat (port : PortNo)
  | doNothingTransaction (port : PortNo) (selector : Byte)
  | chipSelectNegation (port : PortNo)
  -- reset pins
  | prstnAssert (port : PortNo)
  | prstnRelease (port : PortNo)
  | rstnAssert
  /-- `straps`: the levels of QS1 (bit 1) and QS0 (bit 0) at the release (R7). -/
  | rstnRelease (straps : BitVec 2)
  -- events
  | tickEvent (pins : BitVec 8) (early : Nat) (doneFirst : Bool)
  | slewEnd (pins : BitVec 8) (early : Nat) (doneFirst : Bool)
  | holdoffExpired (port : PortNo)
  | edgeRecognized (line : LineNo)
  | recordTake (early : Nat := 0)
  | edgeApplication (early : Nat := 0)
  | portArbiterGrant (pause : Option Nat)
  | secondStageOperation (client : Client) (pause : Option Nat) (early : Nat := 0)
  | takeHead (upTo : FiringStage := .action)
  | settling (upTo : Option FiringStage := none)
  | insertCompletion (early : Nat := 0)
  | chipSelectAssertion (port : PortNo)
  | refclkRisingEdge (pins : BitVec 8) (tickLater : Bool := false)
  deriving DecidableEq, Repr

end Sys2Proof
end

