-- ==== Sys2Proof/Decode.lean ====
section
/-! DEFINITION. What the bytes of a link transaction spell, by the selectors of R170 and the take points of R156. The words
of spec/opcode_table.json spell nothing: the part is a block, its commands come over links and pins, and no row of the
table gives bits. -/

namespace Sys2Proof

/-- The link selectors of R170. -/
def Selector.code : Selector → Byte
  | .submit => 0x51
  | .fetch => 0x52
  | .peek => 0x53
  | .ack => 0x54
  | .time => 0x55
  | .portstat => 0x56

/-- Every link transaction. -/
def Selector.all : List Selector := [.submit, .fetch, .peek, .ack, .time, .portstat]

/-- The transaction that a selector byte names; every other byte opens one that does nothing (R155, R170). -/
def Selector.ofCode (code : Byte) : Option Selector := Selector.all.find? fun x => x.code == code

/-- The six link selectors of R170. -/
def linkSelectors : List Byte := Selector.all.map Selector.code

/-- The bytes that follow the selector of a SUBMIT, up to the last byte of its frame: request code, length byte and as many
parameter bytes as the length byte gives. `none` when they stop short of it (R156, R158). -/
def submitBytes : List Byte → Option (List Byte)
  | code :: length :: rest =>
    if length.toNat ≤ rest.length then some (code :: length :: rest.take length.toNat) else none
  | _ => none

/-- The command that the host's bytes spell on port `port`, the selector first, once they have reached the transaction's
take point; bytes after it are ignored. `none` when they stop short of it (R156, R157, R170). -/
def decodeTransaction (port : PortNo) : List Byte → Option Instr
  | [] => none
  | selector :: bytes =>
    match Selector.ofCode selector, bytes with
    | some .submit, bytes => (submitBytes bytes).map fun frame => .submit port frame
    | some .fetch, _ => some (.fetch port)
    | some .peek, offset :: _ => some (.peek port offset)
    | some .peek, [] => none
    | some .ack, first :: second :: _ => some (.ack port (first, second))
    | some .ack, _ => none
    | some .time, _ => some (.time port)
    | some .portstat, _ => some (.portstat port)
    | none, _ => some (.doNothingTransaction port selector)

/-- The command that a word spells by the table's bits. No row of the table has bits, so no word spells one. -/
def decodeTableWord (_nbits _w : Nat) : Option Instr := none

end Sys2Proof
end

