-- ==== Sys2Proof/Machine/State.lean ====
section
/-! DEFINITION. The state of the part: every piece of state the spec gives its eight blocks, plain data,
and `State.reset`. INVENTORY.md lists each piece with its rule. Where the spec ties two pieces of state
together (a state with the fields present only in it, R2; a request state with its holding or response,
R141; BUSY with its firing record, R64), one inductive holds both, so that the tie cannot break. -/

namespace Sys2Proof.Machine

/-! ## Lines -/

/-- The level of a line (R102, R116). -/
inductive Level where
  | low
  | high
  deriving DecidableEq, Repr

/-- The direction of an edge record: RISE brings its line to HIGH, FALL to LOW (R106). -/
inductive Direction where
  | rise
  | fall
  deriving DecidableEq, Repr

/-- EDGE for a recognized edge, LEVEL for a record that R108 enters. -/
inductive RecordKind where
  | edge
  | level
  deriving DecidableEq, Repr

/-- One record of the edge FIFO (R106). -/
structure EdgeRecord where
  line : LineNo
  direction : Direction
  timestamp : TimeCount
  kind : RecordKind
  deriving DecidableEq, Repr

/-- What the Line Monitor holds for one input line (R102, R103). `stage1` and `stage2` are the two stages of
the synchronizer; `synchronized` is the line's level as last recognized, which an EDGE_RECOGNIZED step
brings to `stage2`. -/
structure InputLine where
  stage1 : Level
  stage2 : Level
  synchronized : Level
  processed : Level
  bindings : List SlotNo
  lost : Byte
  owed : Bool
  deriving DecidableEq, Repr

/-- The Line Monitor's phase (R109). The record in hand is the head of the edge FIFO; `rest` is what
remains of its application set, the slot whose turn it is first (R111). `held` says that the application
whose turn it is waited on a firing that has ended. -/
inductive MonitorPhase where
  | ready
  | applying (rest : List SlotNo) (held : Bool)
  | holding (rest : List SlotNo)
  deriving DecidableEq, Repr

/-- One output line (R116); `claim` is `none` for FREE. -/
structure OutputLine where
  level : Level
  claim : Option PortNo
  idleLevel : Level
  deriving DecidableEq, Repr

/-! ## Slots -/

/-- Whether other ports may watch and query a slot: PRIVATE or OPEN (R1). -/
inductive Share where
  | priv
  | opn
  deriving DecidableEq, Repr

/-- What an output action does to its line (R74). -/
inductive Action where
  | set
  | clear
  | toggle
  deriving DecidableEq, Repr

/-- An output action: the line and what is done to it (R1). -/
structure OutputAction where
  line : LineNo
  action : Action
  deriving DecidableEq, Repr

/-- The edge a TRIGGERED slot starts on (R38). -/
inductive TriggerEdge where
  | rise
  | fall
  | both
  deriving DecidableEq, Repr

/-- The report set of a WINDOW slot (R38). -/
structure ReportSet where
  short : Bool
  long : Bool
  ends : Bool
  deriving DecidableEq, Repr

/-- A slot's mode with the parameters of that mode (R38). A repeat limit of 0 is endless. -/
inductive Mode where
  | oneShot
  | periodic (period : Word) (repeatLimit : Half)
  | gated (line : LineNo) (active : Level) (period : Option Word) (repeatLimit : Half)
  | triggered (line : LineNo) (edge : TriggerEdge) (delay : Word) (period : Option Word) (repeatLimit : Half)
      (restart : Bool) (rewait : Bool)
  | window (line : LineNo) (startEdge endEdge : Direction) (limit : Word) (report : ReportSet) (rewait : Bool)
  deriving DecidableEq, Repr

/-- The state of a reserved slot, with the fields present only in that state (R2). -/
inductive Run where
  | idle
  | armed (deadline : TimeCount) (windowStart : Option TimeCount)
  | paused (remaining : Word)
  | waiting
  | lapsed (windowStart : TimeCount)
  | firing (deadline : TimeCount) (windowStart : Option TimeCount)
  deriving DecidableEq, Repr

/-- The fields present in every state but FREE (R2). `watchers` holds `true` for each port of the watcher set. -/
structure Reservation where
  owner : PortNo
  share : Share
  watchers : Vector Bool 4
  tag : Word
  mode : Mode
  action : Option OutputAction
  fireCount : Half
  run : Run
  deriving DecidableEq, Repr

/-- A slot record (R1): the generation is present in every state; `held` is `none` in FREE. -/
structure Slot where
  generation : Half
  held : Option Reservation
  deriving DecidableEq, Repr

/-- One entry of the quota table (R7). -/
structure QuotaEntry where
  quota : Nat
  owned : Nat
  deriving DecidableEq, Repr

/-! ## Notices -/

/-- The eleven notice kinds (R123). -/
inductive NoticeKind where
  | expired
  | windowShort
  | windowLong
  | windowEnd
  | cancelled
  | released
  | unwatched
  | edgeLost
  | stepped
  | slewDone
  | overflow
  deriving DecidableEq, Repr

/-- A notice as built, before a queue gives it a seq (R123, R126); `none` is an absent field. -/
structure Notice where
  kind : NoticeKind
  slot : Option SlotNo
  generation : Option Half
  tag : Option Word
  eventTime : TimeCount
  ref : Option TimeCount
  value : Option Word
  count : Option Half
  missed : Option Half
  late : Bool
  final : Bool
  watched : Bool
  big : Bool
  deriving DecidableEq, Repr

/-- A notice that a queue has stored, with its seq (R126). -/
structure Stored where
  seq : Half
  notice : Notice
  deriving DecidableEq, Repr

/-! ## Requests and responses -/

/-- The twenty request statuses (section 8.5, R172). -/
inductive Status where
  | ok
  | unknown
  | length
  | notOpen
  | state
  | badParam
  | badSlot
  | notOwner
  | noQuota
  | priv
  | past
  | notArmed
  | range
  | lineHeld
  | lineFull
  | lineBound
  | notClaimed
  | noAuthority
  | authHeld
  | slewing
  deriving DecidableEq, Repr

/-- A request frame as received (R158). Its length byte is the number of parameter bytes. -/
structure Frame where
  code : Byte
  params : List Byte
  deriving DecidableEq, Repr

/-- A held response: the echoed request code, the status and the result bytes (R172). -/
structure Response where
  code : Byte
  status : Status
  results : List Byte
  deriving DecidableEq, Repr

/-- A port's request state with the request holding or the held response it goes with (R141). -/
inductive RequestState where
  | idle
  | queued (frame : Frame)
  | executing (frame : Frame)
  | done (response : Response)
  deriving DecidableEq, Repr

/-- The ARM forms of R171 with the parameters each uses; `refuse` is the past policy REFUSE. -/
inductive ArmForm where
  | absolute (time : TimeCount) (refuse : Bool)
  | relative (time : TimeCount) (refuse : Bool)
  | duration (ticks : Word)
  | none
  deriving DecidableEq, Repr

/-- The slot operation of a request, as the engine offers it to the Slot Table (R5). -/
inductive SlotOp where
  | reserve
  | release (slot : SlotNo)
  | setShare (slot : SlotNo) (share : Share)
  | watch (slot : SlotNo)
  | unwatch (slot : SlotNo)
  | query (slot : SlotNo)
  | configure (slot : SlotNo) (mode : Mode) (tag : Word) (action : Option OutputAction)
  | arm (slot : SlotNo) (form : ArmForm)
  | disarm (slot : SlotNo)
  deriving DecidableEq, Repr

/-- What an operation of the engine waits for (R148). An edge application or a settling that is being taken
is seen by the engine only while the insertion it contains is in flight. -/
inductive WaitFor where
  | firing (slot : SlotNo)
  | insertion
  deriving DecidableEq, Repr

/-- The Request Engine with its work in hand (R145).
`free` is FREE. `granted` is RUNNING with a REQUEST whose checks are still to be made. `inserting` is RUNNING
with an ARM whose own insertion is in flight (R148). `waiting` is WAITING with a REQUEST whose slot operation
has been offered. `teardown` carries out R164, inside a CLOSE request or as work of kind TEARDOWN, with the
numbers of slots and of output lines released so far; it is WAITING when `on` says what for, and else RUNNING. -/
inductive Engine where
  | free
  | granted (port : PortNo)
  | inserting (port : PortNo)
  | waiting (port : PortNo) (op : SlotOp) (on : WaitFor)
  | teardown (port : PortNo) (close : Bool) (released lines : Nat) (on : Option WaitFor)
  deriving DecidableEq, Repr

/-! ## The Deadline Queue and the Dispatch Unit -/

/-- An entry of the Deadline Queue (R24). -/
structure Entry where
  slot : SlotNo
  deadline : TimeCount
  deriving DecidableEq, Repr

/-- Whose slot operation an insertion belongs to (R28), and so what its completion brings to an end; an ARM's
response was fixed when the operation was taken. -/
inductive Inserter where
  | engine (port : PortNo) (results : List Byte)
  | lineMonitor
  | dispatch
  deriving DecidableEq, Repr

/-- An INSERT in flight (R29). -/
structure Insertion where
  slot : SlotNo
  deadline : TimeCount
  windowStart : Option TimeCount
  client : Inserter
  deriving DecidableEq, Repr

/-- The Dispatch Unit's working values for the firing in progress (R67), and in the last two fields how far its second and
third stages have come: the ports whose copy of the notice is still to be delivered, and whether the output action is
still to be applied (R72 to R74, R77). -/
structure FiringRecord where
  slot : SlotNo
  takeTime : TimeCount
  deadline : TimeCount
  late : TimeCount
  periodsPassed : Nat
  periodsCounted : Nat
  missed : Half
  fireCount : Half
  final : Bool
  nextDeadline : Option TimeCount
  noticeKind : Option NoticeKind
  copiesDue : Vector Bool 4
  actionDue : Bool
  deriving DecidableEq, Repr

/-! ## The Timebase Unit -/

/-- The slew record (R95). -/
structure Slew where
  initiator : PortNo
  amount : Int
  span : Nat
  remaining : Int
  ticksRemaining : Nat
  accumulator : Nat
  startCount : TimeCount
  deriving DecidableEq, Repr

/-- A port's snapshot latch (R100). -/
structure Snapshot where
  time : TimeCount
  slewing : Bool
  divisor : Nat
  deriving DecidableEq, Repr

/-! ## Host ports -/

/-- The transaction in progress on a link (R155, R156).
`opened`: chip select has opened it and its take point is still to come. `replying`: it has been taken, or it
does nothing, and the host may clock out the bytes of `reply`; bytes after them read as 0. `fetching`: a FETCH
answered DONE whose reply has not yet been clocked out whole (R157). -/
inductive Transaction where
  | opened
  | replying (reply : List Byte)
  | fetching (reply : List Byte)
  deriving DecidableEq, Repr

/-- The link phase, with the transaction in progress when SELECTED (R155). -/
inductive Link where
  | inert
  | idle
  | selected (transaction : Transaction)
  deriving DecidableEq, Repr

/-- The session state of a port (R160). -/
inductive Session where
  | detached
  | opened
  | closing
  deriving DecidableEq, Repr

/-- A host port. `prstn`, `chipSelect` and `attn` say that the pin PRSTn, CSn or ATTNn is asserted. -/
structure HostPort where
  -- pins and link (R155)
  prstn : Bool
  chipSelect : Bool
  link : Link
  -- session (R160)
  session : Session
  sessionNumber : Byte
  -- request (R141)
  request : RequestState
  teardownPending : Bool
  resetMark : Bool
  -- notice queue and attention (R125, R137)
  notices : List Stored
  nextSeq : Half
  threshold : Nat
  holdoff : Half
  holdoffCounter : Half
  attn : Bool
  -- snapshot latch (R100)
  snapshot : Snapshot
  deriving DecidableEq, Repr

/-! ## The part -/

/-- The state of the part, and `pending`, the MODEL's queue of the commands that wait, first in first out. -/
structure State where
  pending : List Instr
  -- device reset and straps (R168, R7)
  rstn : Bool
  straps : BitVec 2
  -- Timebase Unit
  time : TimeCount
  divider : Nat
  /-- A REFCLK edge has brought the divider count to the divisor, and its tick event is still to be taken (R84, R85, R103). -/
  tickDue : Bool
  divisor : Nat
  pendingDivisor : Option Nat
  authority : Option PortNo
  slew : Option Slew
  -- Slot Table
  slots : Vector Slot 64
  quotas : Vector QuotaEntry 4
  -- Deadline Queue: INSERTING while an insertion is in flight
  queue : List Entry
  insertion : Option Insertion
  -- Dispatch Unit: BUSY while there is a firing record
  firing : Option FiringRecord
  -- Line Monitor
  inputs : Vector InputLine 8
  fifo : List EdgeRecord
  monitor : MonitorPhase
  -- Output Line Bank
  outputs : Vector OutputLine 8
  -- Request Engine and Port Arbiter
  engine : Engine
  pointer : PortNo
  -- Host Ports
  ports : Vector HostPort 4
  deriving DecidableEq, Repr

/-- No command of this part faults: the spec gives every step its effect in every state, so no fault is
declared and none can be raised (safe: there is no stop that could hide an effect). -/
inductive Fault where
  deriving DecidableEq, Repr

/-- Why a command has no meaning. -/
inductive Refusal where
  /-- Raised by `exec` alone, for a command whose meaning is not written yet (safe: nothing follows from a
  stop). No arm raises it any more. -/
  | notModelled (mnemonic : String)
  deriving DecidableEq, Repr

/-! ## Reset -/

/-- The strap splits of R7. -/
def strapQuota (straps : BitVec 2) (port : PortNo) : Nat :=
  match straps.toNat, port with
  | 0, _ => 16
  | 1, 0 => 32
  | 1, 1 => 16
  | 1, _ => 8
  | 2, 0 => 24
  | 2, 1 => 24
  | 2, _ => 8
  | _, 0 => 64
  | _, _ => 0

/-- A slot after device reset (R23). -/
def Slot.reset : Slot := { generation := 0, held := none }

/-- An output line after device reset (R122). -/
def OutputLine.reset : OutputLine := { level := .low, claim := none, idleLevel := .low }

/-- An input line after device reset, when its synchronizer's stages hold `stage1` and `stage2` (R122). -/
def InputLine.reset (stage1 stage2 : Level) : InputLine :=
  { stage1, stage2, synchronized := stage2, processed := stage2, bindings := [], lost := 0, owed := false }

/-- A host port after device reset, with PRSTn negated and chip select negated (R101, R140, R154, R169). -/
def HostPort.reset : HostPort :=
  { prstn := false, chipSelect := false, link := .idle, session := .detached, sessionNumber := 0,
    request := .idle, teardownPending := false, resetMark := false, notices := [], nextSeq := 0,
    threshold := 1, holdoff := 0, holdoffCounter := 0, attn := false,
    snapshot := { time := 0, slewing := false, divisor := 0 } }

/-- The part right after the release of RSTn: every block at its reset values (R23, R37, R63, R82, R101, R122,
R140, R154, R169). DESIGN CHOICE (unsafe): the straps (notes/assumptions/3.md) and the board's levels on the
input pins, chip selects and PRSTn (notes/assumptions/4.md) are the board's, and one choice stands here. -/
def State.reset : State :=
  { pending := [], rstn := false, straps := Config.resetStraps,
    time := 0, divider := 0, tickDue := false, divisor := 1, pendingDivisor := none, authority := none, slew := none,
    slots := Vector.replicate 64 Slot.reset,
    quotas := Vector.ofFn fun p => { quota := strapQuota Config.resetStraps p, owned := 0 },
    queue := [], insertion := none, firing := none,
    inputs := Vector.replicate 8 (InputLine.reset .low .low), fifo := [], monitor := .ready,
    outputs := Vector.replicate 8 OutputLine.reset,
    engine := .free, pointer := 0,
    ports := Vector.replicate 4 HostPort.reset }

end Sys2Proof.Machine
end

