-- ==== Sys2Proof/Machine/Formats.lean ====
section
/-! DEFINITION. The byte layouts of R170 to R174: codes, and the records the part returns. -/

namespace Sys2Proof.Machine

/-! ## Bytes -/

/-- `n` bytes of `v`, most significant byte first (R170). -/
def bytesBE : Nat → Nat → List Byte
  | 0, _ => []
  | n + 1, v => BitVec.ofNat 8 (v / 256 ^ n) :: bytesBE n v

/-- The number that a list of bytes spells, most significant byte first (R170). -/
def numberBE (bytes : List Byte) : Nat := bytes.foldl (fun v b => 256 * v + b.toNat) 0

/-- The field of `n` bytes at offset `at_` of a record (R170). A byte past the record's end reads as 0. -/
def fieldBE (bytes : List Byte) (at_ n : Nat) : Nat :=
  numberBE ((List.range n).map fun i => bytes.getD (at_ + i) 0)

/-- A byte with bit `i` set for the `i`-th flag, bit 0 first (R170). -/
def flagByte (flags : List Bool) : Byte :=
  BitVec.ofNat 8 (flags.foldr (fun f v => 2 * v + f.toNat) 0)

/-! ## Codes -/

/-- Levels are coded 0 for LOW and 1 for HIGH (R171). -/
def Level.code : Level → Byte
  | .low => 0
  | .high => 1

/-- An edge is coded 0 for FALL and 1 for RISE (R171). -/
def Direction.code : Direction → Byte
  | .fall => 0
  | .rise => 1

/-- A TRIGGERED edge: 0 FALL, 1 RISE, 2 BOTH (R171). -/
def TriggerEdge.code : TriggerEdge → Byte
  | .fall => 0
  | .rise => 1
  | .both => 2

/-- PRIVATE 0, OPEN 1 (R171, R174). -/
def Share.code : Share → Byte
  | .priv => 0
  | .opn => 1

/-- SET 1, CLEAR 2, TOGGLE 3 (R171). -/
def Action.code : Action → Byte
  | .set => 1
  | .clear => 2
  | .toggle => 3

/-- SHORT in bit 0, LONG in bit 1, END in bit 2 (R171). -/
def ReportSet.code (r : ReportSet) : Byte := flagByte [r.short, r.long, r.ends]

/-- A yes or no as a byte: 0 NO or IGNORE, 1 YES or RESTART (R171). -/
def yesNo (b : Bool) : Byte := BitVec.ofNat 8 b.toNat

/-- The slot states of R172; FREE is 0. -/
def Run.code : Run → Byte
  | .idle => 1
  | .armed .. => 2
  | .paused .. => 3
  | .waiting => 4
  | .lapsed .. => 5
  | .firing .. => 6

/-- The status codes of R172. -/
def Status.code : Status → Byte
  | .ok => 0x00
  | .unknown => 0x01
  | .length => 0x02
  | .notOpen => 0x03
  | .state => 0x04
  | .badParam => 0x05
  | .badSlot => 0x06
  | .notOwner => 0x07
  | .noQuota => 0x08
  | .priv => 0x09
  | .past => 0x0A
  | .notArmed => 0x0B
  | .range => 0x0C
  | .lineHeld => 0x0D
  | .lineFull => 0x0E
  | .lineBound => 0x0F
  | .notClaimed => 0x10
  | .noAuthority => 0x11
  | .authHeld => 0x12
  | .slewing => 0x13

/-- The notice kinds of R173. -/
def NoticeKind.code : NoticeKind → Byte
  | .expired => 1
  | .windowShort => 2
  | .windowLong => 3
  | .windowEnd => 4
  | .cancelled => 5
  | .released => 6
  | .unwatched => 7
  | .edgeLost => 8
  | .stepped => 9
  | .slewDone => 10
  | .overflow => 11

/-- The session states of R174. -/
def Session.code : Session → Byte
  | .detached => 0
  | .opened => 1
  | .closing => 2

/-- The request states of R174. -/
def RequestState.code : RequestState → Byte
  | .idle => 0
  | .queued _ => 1
  | .executing _ => 2
  | .done _ => 3

/-- The link statuses of R170. -/
inductive LinkStatus where
  | done
  | accepted
  | busy
  | unfetched
  | closing
  | notReady
  | nothing
  | empty
  | stale
  deriving DecidableEq, Repr

/-- The link status bytes of R170. -/
def LinkStatus.code : LinkStatus → Byte
  | .done => 0x01
  | .accepted => 0x02
  | .busy => 0x03
  | .unfetched => 0x04
  | .closing => 0x05
  | .notReady => 0x06
  | .nothing => 0x07
  | .empty => 0x08
  | .stale => 0x09

/-! ## Records -/

/-- A held response as FETCH returns it: echoed code, status, result length, results (R172). -/
def Response.bytes (r : Response) : List Byte :=
  [r.code, r.status.code, BitVec.ofNat 8 r.results.length] ++ r.results

/-- A port number in one byte; absent reads as 0. -/
def portByte (p : Option PortNo) : Byte := BitVec.ofNat 8 ((p.map (·.val)).getD 0)

/-- A slot number in one byte; absent reads as 0. -/
def slotByte (n : Option SlotNo) : Byte := BitVec.ofNat 8 ((n.map (·.val)).getD 0)

/-- A line number in one byte. -/
def lineByte (l : LineNo) : Byte := BitVec.ofNat 8 l.val

/-- The 36-byte notice record (R173). An absent field reads as 0. -/
def Stored.bytes (e : Stored) : List Byte :=
  let n := e.notice
  bytesBE 2 e.seq.toNat ++ [n.kind.code, slotByte n.slot] ++ bytesBE 2 (n.generation.getD 0).toNat
    ++ [flagByte [n.late, n.final, n.watched, n.big], 0]
    ++ bytesBE 4 (n.tag.getD 0).toNat ++ bytesBE 8 n.eventTime.toNat ++ bytesBE 8 (n.ref.getD 0).toNat
    ++ bytesBE 4 (n.value.getD 0).toNat ++ bytesBE 2 (n.count.getD 0).toNat ++ bytesBE 2 (n.missed.getD 0).toNat

/-- The record of 36 zero bytes that follows EMPTY (R173). -/
def emptyNoticeBytes : List Byte := List.replicate 36 0

/-- The 21-byte mode block (R171, R174). A field that the mode does not have reads as 0. -/
def Mode.block : Mode → List Byte
  | .oneShot => [1, 0, 0, 0, 0, 0, 0] ++ bytesBE 4 0 ++ bytesBE 4 0 ++ bytesBE 4 0 ++ bytesBE 2 0
  | .periodic period repeatLimit =>
    [2, 0, 0, 0, 0, 0, 0] ++ bytesBE 4 period.toNat ++ bytesBE 4 0 ++ bytesBE 4 0 ++ bytesBE 2 repeatLimit.toNat
  | .gated line active period repeatLimit =>
    [3, lineByte line, active.code, 0, 0, 0, 0] ++ bytesBE 4 (period.getD 0).toNat ++ bytesBE 4 0 ++ bytesBE 4 0
      ++ bytesBE 2 repeatLimit.toNat
  | .triggered line edge delay period repeatLimit restart rewait =>
    [4, lineByte line, edge.code, 0, yesNo restart, yesNo rewait, 0] ++ bytesBE 4 (period.getD 0).toNat
      ++ bytesBE 4 delay.toNat ++ bytesBE 4 0 ++ bytesBE 2 repeatLimit.toNat
  | .window line startEdge endEdge limit report rewait =>
    [5, lineByte line, startEdge.code, endEdge.code, 0, yesNo rewait, report.code] ++ bytesBE 4 0 ++ bytesBE 4 0
      ++ bytesBE 4 limit.toNat ++ bytesBE 2 0

/-- The deadline field of a slot record, 0 where R2 has none. -/
def Run.deadlineField : Run → TimeCount
  | .armed d _ => d
  | .firing d _ => d
  | _ => 0

/-- The remaining field of a slot record, 0 where R2 has none. -/
def Run.remainingField : Run → Word
  | .paused r => r
  | _ => 0

/-- The window start field of a slot record, 0 where R2 has none. -/
def Run.windowStartField : Run → TimeCount
  | .armed _ w => w.getD 0
  | .firing _ w => w.getD 0
  | .lapsed w => w
  | _ => 0

/-- The 56-byte slot record that QUERY returns (R174). -/
def Reservation.record (n : SlotNo) (generation : Half) (r : Reservation) : List Byte :=
  [slotByte (some n), r.run.code, portByte (some r.owner), r.share.code, flagByte r.watchers.toList]
    ++ bytesBE 2 generation.toNat ++ bytesBE 4 r.tag.toNat ++ r.mode.block
    ++ [(r.action.map fun a => lineByte a.line).getD 0, (r.action.map fun a => a.action.code).getD 0]
    ++ bytesBE 2 r.fireCount.toNat ++ bytesBE 8 r.run.deadlineField.toNat
    ++ bytesBE 4 r.run.remainingField.toNat ++ bytesBE 8 r.run.windowStartField.toNat

/-- The 11-byte TIME snapshot, from the latch (R174). -/
def Snapshot.bytes (l : Snapshot) : List Byte :=
  bytesBE 8 l.time.toNat ++ [flagByte [l.slewing]] ++ bytesBE 2 l.divisor

end Sys2Proof.Machine
end

