-- ==== Sys2Proof/Machine/Operands.lean ====
section
/-! DEFINITION. The operand forms: the requests with their codes and lengths (R171), the frame that a SUBMIT
hands over (R158), and the parameter check (R149 step 3, R153), which reads a request's parameter bytes and
answers `none` for BAD_PARAM. -/

namespace Sys2Proof.Machine

/-- The byte is one of the six link selectors SUBMIT, FETCH, PEEK, ACK, TIME and PORTSTAT (R170). -/
def isSelector (b : Byte) : Bool := (Selector.ofCode b).isSome

/-- The twenty-two requests (section 8.6). -/
inductive Req where
  | openSession
  | closeSession
  | reserve
  | release
  | setShare
  | watch
  | unwatch
  | query
  | giveQuota
  | configure
  | arm
  | disarm
  | takeAuthority
  | yieldAuthority
  | stepTime
  | slew
  | cancelSlew
  | setDivisor
  | claimOutput
  | driveOutput
  | releaseOutput
  | setAttention
  deriving DecidableEq, Repr

/-- The request codes of R171. -/
def Req.code : Req → Byte
  | .openSession => 0x01
  | .closeSession => 0x02
  | .reserve => 0x10
  | .release => 0x11
  | .setShare => 0x12
  | .watch => 0x13
  | .unwatch => 0x14
  | .query => 0x15
  | .giveQuota => 0x16
  | .configure => 0x20
  | .arm => 0x21
  | .disarm => 0x22
  | .takeAuthority => 0x30
  | .yieldAuthority => 0x31
  | .stepTime => 0x32
  | .slew => 0x33
  | .cancelSlew => 0x34
  | .setDivisor => 0x35
  | .claimOutput => 0x40
  | .driveOutput => 0x41
  | .releaseOutput => 0x42
  | .setAttention => 0x50

/-- The number of parameter bytes that each request code has (R151, R171). -/
def Req.length : Req → Nat
  | .openSession | .closeSession | .reserve | .takeAuthority | .yieldAuthority | .cancelSlew => 0
  | .release | .watch | .unwatch | .query | .disarm | .releaseOutput => 1
  | .setShare | .giveQuota | .setDivisor | .claimOutput | .driveOutput => 2
  | .setAttention => 3
  | .stepTime | .slew => 8
  | .arm => 15
  | .configure => 28

/-- Every request. -/
def Req.all : List Req :=
  [.openSession, .closeSession, .reserve, .release, .setShare, .watch, .unwatch, .query, .giveQuota, .configure,
    .arm, .disarm, .takeAuthority, .yieldAuthority, .stepTime, .slew, .cancelSlew, .setDivisor, .claimOutput,
    .driveOutput, .releaseOutput, .setAttention]

/-- The request that a code byte names; `none` is UNKNOWN (R151, R171). -/
def Req.ofCode (code : Byte) : Option Req := Req.all.find? fun r => r.code == code

/-- The frame in the bytes that follow the SUBMIT selector, taken at its last parameter byte; further bytes are
ignored. `none` when the bytes stop short of the length byte's count, and the take point is not reached (R158). -/
def Frame.ofBytes : List Byte → Option Frame
  | code :: length :: rest =>
    if length.toNat ≤ rest.length then some { code, params := rest.take length.toNat } else none
  | _ => none

/-! ## Fields -/

/-- The byte at an offset of the parameters. -/
def byteAt (params : List Byte) (i : Nat) : Nat := (params.getD i 0).toNat

/-- A level: 0 LOW, 1 HIGH (R171). -/
def Level.ofCode : Nat → Option Level
  | 0 => some .low
  | 1 => some .high
  | _ => none

/-- An edge: 0 FALL, 1 RISE (R171). -/
def Direction.ofCode : Nat → Option Direction
  | 0 => some .fall
  | 1 => some .rise
  | _ => none

/-- A TRIGGERED edge: 0 FALL, 1 RISE, 2 BOTH (R171). -/
def TriggerEdge.ofCode : Nat → Option TriggerEdge
  | 0 => some .fall
  | 1 => some .rise
  | 2 => some .both
  | _ => none

/-- A share: 0 PRIVATE, 1 OPEN (R171). -/
def Share.ofCode : Nat → Option Share
  | 0 => some .priv
  | 1 => some .opn
  | _ => none

/-- A yes or no, and IGNORE or RESTART: 0 or 1 (R171). -/
def yesNoOf : Nat → Option Bool
  | 0 => some false
  | 1 => some true
  | _ => none

/-- A line number 0 to 7 (R38, R116). -/
def lineOf (v : Nat) : Option LineNo := if h : v < 8 then some ⟨v, h⟩ else none

/-- A report set: bits 0 to 2, not empty, no other bit set (R38, R170). -/
def ReportSet.ofCode (v : Nat) : Option ReportSet :=
  if 0 < v ∧ v < 8 then some { short := v.testBit 0, long := v.testBit 1, ends := v.testBit 2 } else none

/-- A period with its repeat limit: an absent period is given as 0, and then the limit is 0 (R38, R40). -/
def periodOf (period repeatLimit : Nat) : Option (Option Word × Half) :=
  if period = 0 then
    if repeatLimit = 0 then some (none, 0) else none
  else some (some (BitVec.ofNat 32 period), BitVec.ofNat 16 repeatLimit)

/-- The output action of CONFIGURE. With action 0 the line byte must be 0 (R40, R171). The outer `none` is a
BAD_PARAM. -/
def actionOf (line action : Nat) : Option (Option OutputAction) :=
  match action with
  | 0 => if line = 0 then some none else none
  | 1 => (lineOf line).map fun l => some { line := l, action := .set }
  | 2 => (lineOf line).map fun l => some { line := l, action := .clear }
  | 3 => (lineOf line).map fun l => some { line := l, action := .toggle }
  | _ => none

/-- The mode block at offset `o` of the parameters. A field the named mode does not have must be 0 (R38, R40,
R171). -/
def modeOf (params : List Byte) (o : Nat) : Option Mode :=
  let line := byteAt params (o + 1)
  let edge := byteAt params (o + 2)
  let endEdge := byteAt params (o + 3)
  let retrigger := byteAt params (o + 4)
  let rewait := byteAt params (o + 5)
  let report := byteAt params (o + 6)
  let period := fieldBE params (o + 7) 4
  let delay := fieldBE params (o + 11) 4
  let limit := fieldBE params (o + 15) 4
  let repeatLimit := fieldBE params (o + 19) 2
  match byteAt params o with
  | 1 =>
    if line = 0 ∧ edge = 0 ∧ endEdge = 0 ∧ retrigger = 0 ∧ rewait = 0 ∧ report = 0 ∧ period = 0 ∧ delay = 0
        ∧ limit = 0 ∧ repeatLimit = 0 then some .oneShot else none
  | 2 =>
    if line = 0 ∧ edge = 0 ∧ endEdge = 0 ∧ retrigger = 0 ∧ rewait = 0 ∧ report = 0 ∧ period ≠ 0 ∧ delay = 0
        ∧ limit = 0 then some (.periodic (BitVec.ofNat 32 period) (BitVec.ofNat 16 repeatLimit)) else none
  | 3 =>
    if endEdge = 0 ∧ retrigger = 0 ∧ rewait = 0 ∧ report = 0 ∧ delay = 0 ∧ limit = 0 then do
      let l ← lineOf line
      let active ← Level.ofCode edge
      let (p, n) ← periodOf period repeatLimit
      some (.gated l active p n)
    else none
  | 4 =>
    if endEdge = 0 ∧ report = 0 ∧ limit = 0 then do
      let l ← lineOf line
      let e ← TriggerEdge.ofCode edge
      let restart ← yesNoOf retrigger
      let again ← yesNoOf rewait
      let (p, n) ← periodOf period repeatLimit
      some (.triggered l e (BitVec.ofNat 32 delay) p n restart again)
    else none
  | 5 =>
    if retrigger = 0 ∧ period = 0 ∧ delay = 0 ∧ limit ≠ 0 ∧ repeatLimit = 0 then do
      let l ← lineOf line
      let s ← Direction.ofCode edge
      let e ← Direction.ofCode endEdge
      let again ← yesNoOf rewait
      let set ← ReportSet.ofCode report
      some (.window l s e (BitVec.ofNat 32 limit) set again)
    else none
  | _ => none

/-- The ARM form with its fields, at offset 1 of the parameters. A field the form does not use must be 0
(R171). -/
def armFormOf (params : List Byte) : Option ArmForm :=
  let policy := byteAt params 2
  let time := fieldBE params 3 8
  let duration := fieldBE params 11 4
  match byteAt params 1 with
  | 1 => if duration = 0 then (yesNoOf policy).map (ArmForm.absolute (BitVec.ofNat 64 time)) else none
  | 2 => if duration = 0 then (yesNoOf policy).map (ArmForm.relative (BitVec.ofNat 64 time)) else none
  | 3 => if policy = 0 ∧ time = 0 ∧ duration ≠ 0 then some (.duration (BitVec.ofNat 32 duration)) else none
  | 4 => if policy = 0 ∧ time = 0 ∧ duration = 0 then some .none else none
  | _ => none

/-! ## Parameters of each request

Each reads the parameter bytes of a frame whose length has been checked. A slot number is not a parameter range
(R153): it is handed on as it stands in the frame. -/

/-- CONFIGURE: slot, mode block, tag, output line, output action. -/
def configureOf (params : List Byte) : Option (Mode × Word × Option OutputAction) := do
  let mode ← modeOf params 1
  let action ← actionOf (byteAt params 26) (byteAt params 27)
  some (mode, BitVec.ofNat 32 (fieldBE params 22 4), action)

/-- GIVE_QUOTA: the recipient port and a count of 1 to 64 (R21). -/
def giveQuotaOf (params : List Byte) : Option (Nat × Nat) :=
  let n := byteAt params 1
  if 1 ≤ n ∧ n ≤ 64 then some (byteAt params 0, n) else none

/-- STEP: a delta of 1 to 2^48−1 (R92). -/
def stepOf (params : List Byte) : Option Nat :=
  let delta := fieldBE params 0 8
  if 1 ≤ delta ∧ delta ≤ 2 ^ 48 - 1 then some delta else none

/-- SLEW: a signed amount other than 0 whose absolute value does not exceed the span, and a span of 1 or more
(R95, R170). -/
def slewOf (params : List Byte) : Option (Int × Nat) :=
  let amount := (BitVec.ofNat 32 (fieldBE params 0 4)).toInt
  let span := fieldBE params 4 4
  if amount ≠ 0 ∧ 1 ≤ span ∧ amount.natAbs ≤ span then some (amount, span) else none

/-- SET_DIVISOR: 1 to 4096 (R87). -/
def divisorOf (params : List Byte) : Option Nat :=
  let divisor := fieldBE params 0 2
  if 1 ≤ divisor ∧ divisor ≤ 4096 then some divisor else none

/-- CLAIM_OUTPUT and DRIVE_OUTPUT: a line 0 to 7 and a level (R116). -/
def lineLevelOf (params : List Byte) : Option (LineNo × Level) := do
  let line ← lineOf (byteAt params 0)
  let level ← Level.ofCode (byteAt params 1)
  some (line, level)

/-- SET_ATTENTION: a threshold of 1 to 32 and a holdoff of 0 to 65535 (R134). -/
def attentionOf (params : List Byte) : Option (Nat × Half) :=
  let threshold := byteAt params 0
  if 1 ≤ threshold ∧ threshold ≤ 32 then some (threshold, BitVec.ofNat 16 (fieldBE params 1 2)) else none

end Sys2Proof.Machine
end

