-- ==== Sys2Proof/Machine/Flags.lean ====
section
/-! DEFINITION. The conditions the part computes: saturation, attention (R136, R137), the due report (R27), what a
mode gives (R38, R58), and the values of a firing (R68 to R70). -/

namespace Sys2Proof.Machine

/-! ## Saturation -/

/-- A time computed as a sum, held at 2^64−1 (R50, R69, R83). -/
def satTime (n : Nat) : TimeCount := BitVec.ofNat 64 (min n Config.timeMax)

/-- A 32-bit quantity saturating at 2^32−1 (R51, R57, R68). -/
def satWord (n : Nat) : Word := BitVec.ofNat 32 (min n Config.wordMax)

/-- A 16-bit count saturating at 65535 (R4, R70, R135). -/
def satHalf (n : Nat) : Half := BitVec.ofNat 16 (min n Config.halfMax)

/-! ## Lines -/

/-- The level a record of this direction brings its line to (R50, R106). -/
def Direction.level : Direction → Level
  | .rise => .high
  | .fall => .low

/-- The direction of an edge to this level (R103). -/
def Level.direction : Level → Direction
  | .high => .rise
  | .low => .fall

/-- The opposite level (R74). -/
def Level.invert : Level → Level
  | .high => .low
  | .low => .high

/-- The level of input pin `i` in a word of pin levels. -/
def pinLevel (pins : BitVec 8) (i : LineNo) : Level := if pins.getLsbD i then .high else .low

/-- The level that an output action leaves a line of level `l` at (R74). -/
def Action.apply : Action → Level → Level
  | .set, _ => .high
  | .clear, _ => .low
  | .toggle, l => l.invert

/-! ## Attention -/

/-- The stored notice is an OVERFLOW notice. -/
def Stored.isOverflow (e : Stored) : Bool := e.notice.kind == .overflow

/-- Overflow is yes exactly while the list holds an OVERFLOW notice (R125). -/
def HostPort.overflow (p : HostPort) : Bool := p.notices.any Stored.isOverflow

/-- The holdoff is expired: it is above 0 and the counter is at or above it (R136). -/
def HostPort.holdoffExpired (p : HostPort) : Bool := decide (0 < p.holdoff.toNat ∧ p.holdoff.toNat ≤ p.holdoffCounter.toNat)

/-- The terms of R137 for ATTNn to be asserted. -/
def HostPort.attention (p : HostPort) : Bool :=
  p.session == .opened && !p.notices.isEmpty && (decide (p.threshold ≤ p.notices.length) || p.holdoffExpired)

/-- ATTNn is a level that follows its terms (R137). -/
def HostPort.drive (p : HostPort) : HostPort := { p with attn := p.attention }

/-! ## The due report -/

/-- The Deadline Queue reports due: the head's deadline is no later than the time count and no INSERT is in
flight (R27). -/
def State.due (s : State) : Bool :=
  s.insertion.isNone && (match s.queue with
    | [] => false
    | e :: _ => decide (e.deadline.toNat ≤ s.time.toNat))

/-! ## Modes -/

/-- The input line that a line mode binds its slot to (R39). -/
def Mode.line : Mode → Option LineNo
  | .oneShot => none
  | .periodic .. => none
  | .gated line .. => some line
  | .triggered line .. => some line
  | .window line .. => some line

/-- The period, where the mode has one and it is present (R69). -/
def Mode.period : Mode → Option Word
  | .oneShot => none
  | .periodic period _ => some period
  | .gated _ _ period _ => period
  | .triggered _ _ _ period _ _ _ => period
  | .window .. => none

/-- The repeat limit; 0 for a mode without one (R38, R70). -/
def Mode.repeatLimit : Mode → Nat
  | .oneShot => 0
  | .periodic _ n => n.toNat
  | .gated _ _ _ n => n.toNat
  | .triggered _ _ _ _ n _ _ => n.toNat
  | .window .. => 0

/-- The slot's mode is GATED. -/
def Mode.isGated : Mode → Bool
  | .gated .. => true
  | _ => false

/-- An ARM form suits a mode (R171). -/
def ArmForm.suits : ArmForm → Mode → Bool
  | .absolute .., .oneShot => true
  | .absolute .., .periodic .. => true
  | .relative .., .oneShot => true
  | .relative .., .periodic .. => true
  | .duration _, .gated .. => true
  | .none, .triggered .. => true
  | .none, .window .. => true
  | _, _ => false

/-- A record of this direction matches a TRIGGERED slot's edge (R53). -/
def TriggerEdge.matchesDir : TriggerEdge → Direction → Bool
  | .both, _ => true
  | .rise, d => d == .rise
  | .fall, d => d == .fall

/-- The slot is FIRING. -/
def Run.isFiring : Run → Bool
  | .firing .. => true
  | _ => false

/-! ## A firing -/

/-- The periods passed: the smallest whole number `k`, 1 or more, for which the deadline plus `k` periods is later
than the take time, which is `late` after the deadline; 1 without a period (R69). -/
def passedPeriods (late : Nat) (period : Option Word) : Nat :=
  match period with
  | some p => late / p.toNat + 1
  | none => 1

/-- The periods a firing counts: all that passed, or as many as the repeat limit leaves (R70). -/
def countedPeriods (passed repeatLimit fireCount : Nat) : Nat :=
  if repeatLimit = 0 then passed else min passed (repeatLimit - fireCount)

/-- A firing is FINAL, for the fire count after it (R58). -/
def Mode.isFinal (m : Mode) (fireCount : Nat) : Bool :=
  match m with
  | .oneShot => true
  | .window .. => false
  | _ =>
    match m.period with
    | none => true
    | some _ => decide (m.repeatLimit ≠ 0 ∧ m.repeatLimit ≤ fireCount)

/-- The notice kind of a firing (R72). -/
def Mode.firingNotice : Mode → Option NoticeKind
  | .window _ _ _ _ report _ => if report.long then some .windowLong else none
  | _ => some .expired

/-- The firing record that the take of slot `n` at `now` opens and the first stage fills in (R65, R67 to R70): its
notice is due to the owner and to each watcher, and its output action, where the slot has one, is due (R72 to R74). -/
def FiringRecord.compute (n : SlotNo) (r : Reservation) (deadline now : TimeCount) : FiringRecord :=
  let late := now.toNat - deadline.toNat
  let passed := passedPeriods late r.mode.period
  let counted := countedPeriods passed r.mode.repeatLimit r.fireCount.toNat
  let fireCount := satHalf (r.fireCount.toNat + counted)
  let final := r.mode.isFinal fireCount.toNat
  { slot := n, takeTime := now, deadline, late := BitVec.ofNat 64 late, periodsPassed := passed,
    periodsCounted := counted, missed := satHalf (counted - 1), fireCount, final,
    nextDeadline := if final then none else r.mode.period.map fun p => satTime (deadline.toNat + passed * p.toNat),
    noticeKind := r.mode.firingNotice,
    copiesDue := Vector.ofFn fun q => r.mode.firingNotice.isSome && (q == r.owner || r.watchers[q]),
    actionDue := r.action.isSome }

end Sys2Proof.Machine
end

