-- ==== Sys2Proof/Machine/Ops.lean ====
section
/-! DEFINITION. The named operations that the steps share: reading and writing the parts of State, delivering
notices, completing requests, the Deadline Queue's operations, the end of a firing, binding lists, the work of a
release and of a teardown. -/

namespace Sys2Proof.Machine

/-! ## Reading and writing -/

/-- Host port `p`. -/
def State.port (s : State) (p : PortNo) : HostPort := s.ports[p]

/-- Host port `p` replaced. -/
def State.setPort (s : State) (p : PortNo) (x : HostPort) : State := { s with ports := s.ports.set p x }

/-- Slot record `n`. -/
def State.slot (s : State) (n : SlotNo) : Slot := s.slots[n]

/-- Slot record `n` replaced. -/
def State.setSlot (s : State) (n : SlotNo) (x : Slot) : State := { s with slots := s.slots.set n x }

/-- The reservation of slot `n`; `none` for a FREE slot. -/
def State.held (s : State) (n : SlotNo) : Option Reservation := (s.slot n).held

/-- Slot `n` with this reservation and the generation it has. -/
def State.setHeld (s : State) (n : SlotNo) (r : Reservation) : State :=
  s.setSlot n { s.slot n with held := some r }

/-- The quota table's entry of port `p`. -/
def State.quota (s : State) (p : PortNo) : QuotaEntry := s.quotas[p]

/-- The quota table's entry of port `p` replaced. -/
def State.setQuota (s : State) (p : PortNo) (x : QuotaEntry) : State := { s with quotas := s.quotas.set p x }

/-- Input line `l`. -/
def State.input (s : State) (l : LineNo) : InputLine := s.inputs[l]

/-- Input line `l` replaced. -/
def State.setInput (s : State) (l : LineNo) (x : InputLine) : State := { s with inputs := s.inputs.set l x }

/-- Output line `l`. -/
def State.output (s : State) (l : LineNo) : OutputLine := s.outputs[l]

/-- Output line `l` replaced. -/
def State.setOutput (s : State) (l : LineNo) (x : OutputLine) : State := { s with outputs := s.outputs.set l x }

/-- The ports in a watcher set, in port order. -/
def watcherPorts (w : Vector Bool 4) : List PortNo := (List.finRange 4).filter fun p => w[p]

/-- Every line, in line-number order. -/
def allLines : List LineNo := List.finRange 8

/-- The empty watcher set. -/
def noWatchers : Vector Bool 4 := Vector.replicate 4 false

/-- The state in which slot `n` stands is FIRING. -/
def State.isFiring (s : State) (n : SlotNo) : Bool :=
  match s.held n with
  | some r => r.run.isFiring
  | none => false

/-- While RSTn is asserted every block stands at its reset values and takes nothing (R168). -/
def State.live (s : State) (f : State → State) : Host.Outcome State Fault Refusal :=
  .next (if s.rstn then s else f s)

/-! ## Notices -/

/-- A notice about slot `n`, which holds `r` at this generation, without the fields its kind may add
(R123). -/
def Notice.ofSlot (kind : NoticeKind) (n : SlotNo) (generation : Half) (r : Reservation) (eventTime : TimeCount) :
    Notice :=
  { kind, slot := some n, generation := some generation, tag := some r.tag, eventTime, ref := none, value := none,
    count := none, missed := none, late := false, final := false, watched := false, big := false }

/-- A notice about no slot (R93, R97, R124). -/
def Notice.bare (kind : NoticeKind) (eventTime : TimeCount) (ref : TimeCount) (value : Word) : Notice :=
  { kind, slot := none, generation := none, tag := none, eventTime, ref := some ref, value := some value,
    count := none, missed := none, late := false, final := false, watched := false, big := false }

/-- The OVERFLOW notice as raised at `now` (R124). -/
def Notice.overflow (now : TimeCount) : Notice := Notice.bare .overflow now now 1

/-- A further notice is dropped into the OVERFLOW notice at `now` (R124, R127). -/
def Stored.countDrop (now : TimeCount) (e : Stored) : Stored :=
  if e.isOverflow then
    { e with notice := { e.notice with
        ref := some now, value := some (BitVec.ofNat 32 (min ((e.notice.value.getD 0).toNat + 1) Config.halfMax)) } }
  else e

/-- The queue stores a notice at the end of its list with the next seq; a notice that enters an empty list
restarts the holdoff counter (R126, R127, R135). -/
def HostPort.store (n : Notice) (p : HostPort) : HostPort :=
  HostPort.drive { p with
    notices := p.notices ++ [{ seq := p.nextSeq, notice := n }], nextSeq := p.nextSeq + 1,
    holdoffCounter := if p.notices.isEmpty then 0 else p.holdoffCounter }

/-- An arrival at a port's notice queue when the time count is `now` (R127). -/
def HostPort.arrive (now : TimeCount) (n : Notice) (p : HostPort) : HostPort :=
  match p.session with
  | .opened =>
    if p.overflow then { p with notices := p.notices.map (Stored.countDrop now) }
    else if p.notices.length < Config.ordinaryNotices then p.store n
    else p.store (Notice.overflow now)
  | .closing => p
  | .detached => p

/-- One delivery of a notice to port `p` (R127). -/
def State.deliver (n : Notice) (s : State) (p : PortNo) : State := s.setPort p ((s.port p).arrive s.time n)

/-- The copies to the watchers of a slot, each with the flag WATCHED (R18). -/
def State.deliverWatchers (n : Notice) (w : Vector Bool 4) (s : State) : State :=
  (watcherPorts w).foldl (State.deliver { n with watched := true }) s

/-- The copies to the owner and to each watcher (R57, R73). -/
def State.deliverAll (n : Notice) (r : Reservation) (s : State) : State :=
  (s.deliver n r.owner).deliverWatchers n r.watchers

/-! ## Requests -/

/-- The engine completes the request it has in hand (R144). With the reset mark set the response is
discarded, and a teardown becomes pending if the port is OPEN (R147). -/
def State.complete (p : PortNo) (status : Status) (results : List Byte) (s : State) : State :=
  let x := s.port p
  let code := match x.request with
    | .executing f => f.code
    | _ => 0
  let y : HostPort :=
    if x.resetMark then
      { x with request := .idle, resetMark := false, teardownPending := x.teardownPending || x.session == .opened }
    else { x with request := .done { code, status, results } }
  { s.setPort p y with engine := .free }

/-- A refusal, whose response carries its status alone (R150). -/
def State.refuse (p : PortNo) (status : Status) (s : State) : State := s.complete p status []

/-- The engine executes the request it has just been granted, when its frame's code is that of `c`: the frame
check and the session check are made (R149 steps 1 and 2), and then `k`, with the port and the parameter bytes. An
engine that has no such request in hand does nothing. -/
def State.serve (c : Req) (k : PortNo → List Byte → State → State) (s : State) : State :=
  match s.engine with
  | .granted p =>
    match (s.port p).request with
    | .executing f =>
      if f.code ≠ c.code then s
      else if f.params.length ≠ c.length then s.refuse p .length
      else if c ≠ .openSession ∧ (s.port p).session ≠ .opened then s.refuse p .notOpen
      else k p f.params s
    | _ => s
  | _ => s

/-- The slot that a request names, checked by steps 1 and 2 of R9: `none` is BAD_SLOT. -/
def State.namedSlot (s : State) (v : Nat) : Option (SlotNo × Reservation) :=
  if h : v < 64 then (s.held ⟨v, h⟩).map fun r => (⟨v, h⟩, r) else none

/-- What a slot operation on this slot must wait for: the end of the slot's firing (R6), or an insertion in flight,
since the Slot Table takes no other slot operation meanwhile (R28). -/
def State.waitsFor (s : State) (n : Option SlotNo) : Option WaitFor :=
  match n.filter s.isFiring with
  | some n => some (.firing n)
  | none => if s.insertion.isSome then some .insertion else none

/-- The engine offers the slot operation of its request: it is taken as `k`, or it waits (R6, R148). -/
def State.offer (p : PortNo) (n : Option SlotNo) (op : SlotOp) (k : State → State) (s : State) : State :=
  match s.waitsFor n with
  | some w => { s with engine := .waiting p op w }
  | none => k s

/-! ## Binding lists -/

/-- Slot `n` leaves the binding list of line `l` (R39). If a record of that line is in hand, the slot is passed over
by it, even if it joins the list again (R111). -/
def State.unbind (n : SlotNo) (l : LineNo) (s : State) : State :=
  let s := s.setInput l { s.input l with bindings := (s.input l).bindings.filter (· ≠ n) }
  if (s.fifo.head?.map (·.line)) = some l then
    match s.monitor with
    | .ready => s
    | .applying rest held => { s with monitor := .applying (rest.filter (· ≠ n)) held }
    | .holding rest => { s with monitor := .holding (rest.filter (· ≠ n)) }
  else s

/-- Slot `n` joins the binding list of line `l` at its end (R39). -/
def State.bind (n : SlotNo) (l : LineNo) (s : State) : State :=
  s.setInput l { s.input l with bindings := (s.input l).bindings ++ [n] }

/-- Slot `n` leaves the binding list that its mode puts it in. -/
def State.unbindMode (n : SlotNo) (m : Mode) (s : State) : State :=
  match m.line with
  | some l => s.unbind n l
  | none => s

/-- The bindings of a CONFIGURE that changes the mode of slot `n` from `old` to `new` (R41). -/
def State.rebind (n : SlotNo) (old new : Mode) (s : State) : State :=
  if old.line = new.line then s
  else
    let s := s.unbindMode n old
    match new.line with
    | some l => s.bind n l
    | none => s

/-! ## The edge FIFO -/

/-- A record of the line stands in the FIFO, the record in hand included (R104, R106). -/
def State.lineQueued (s : State) (l : LineNo) : Bool := s.fifo.any fun r => r.line == l

/-- An edge that is not queued, and an owed line without binding or record: the processed level becomes the
synchronized level, nothing is lost and nothing is owed (R105, R108). -/
def InputLine.settle (i : InputLine) (level : Level) : InputLine :=
  { i with synchronized := level, processed := level, lost := 0, owed := false }

/-- An edge of line `l` is recognized: its synchronized level becomes that of the synchronizer's second stage, and
the edge is not queued, enters the FIFO, or is dropped (R104, R105, R107). -/
def State.recognize (l : LineNo) (s : State) : State :=
  let i := s.input l
  if i.bindings.isEmpty && !s.lineQueued l then s.setInput l (i.settle i.stage2)
  else if s.fifo.length < Config.fifoDepth then
    { s.setInput l { i with synchronized := i.stage2, owed := false } with
      fifo := s.fifo ++ [{ line := l, direction := i.stage2.direction, timestamp := s.time, kind := .edge }] }
  else
    s.setInput l { i with
      synchronized := i.stage2, lost := BitVec.ofNat 8 (min (i.lost.toNat + 1) Config.lostMax), owed := true }

/-- An edge of line `l` waits to be recognized: the synchronizer's second stage has taken a new level (R103). -/
def State.edgePending (s : State) (l : LineNo) : Bool := (s.input l).stage2 != (s.input l).synchronized

/-- Every edge that waits on one of these lines is recognized, in the order given (R104). -/
def State.recognizeAll (ls : List LineNo) (s : State) : State :=
  ls.foldl (fun s l => if s.edgePending l then s.recognize l else s) s

/-- The edges that wait on the lines below `early` are recognized, in line-number order: those that are taken before what the
step does next (R103, R104, R108). -/
def State.recognizeBelow (early : Nat) (s : State) : State :=
  s.recognizeAll (allLines.filter fun l => l.val < early)

/-- A place of the FIFO that has become free is offered to the owed lines, in line-number order. When recognized edges have
taken every place, the first owed line that needs one waits (R108). -/
def State.offerPlace : List LineNo → State → State
  | [], s => s
  | l :: ls, s =>
    let i := s.input l
    if i.owed then
      if i.bindings.isEmpty && !s.lineQueued l then
        State.offerPlace ls (s.setInput l (i.settle i.synchronized))
      else if s.fifo.length < Config.fifoDepth then
        { s.setInput l { i with owed := false } with
          fifo := s.fifo ++ [{ line := l, direction := i.synchronized.direction, timestamp := s.time, kind := .level }] }
      else s
    else State.offerPlace ls s

/-- The record in hand leaves the FIFO, and the Line Monitor returns to READY (R113). The edges of the lines below `early`
that wait to be recognized are taken before the free place is offered to the owed lines (R108, notes/assumptions/20.md). -/
def State.recordLeaves (early : Nat) (s : State) : State :=
  State.offerPlace allLines (State.recognizeBelow early { s with fifo := s.fifo.tail, monitor := .ready })

/-- A record whose application set is exhausted leaves the FIFO (R113). -/
def State.leaveIfApplied (early : Nat) (s : State) : State :=
  match s.monitor with
  | .applying [] _ => s.recordLeaves early
  | _ => s

/-- The application whose turn it was is over. -/
def State.applicationDone (s : State) : State :=
  match s.monitor with
  | .applying (_ :: rest) _ => { s with monitor := .applying rest false }
  | _ => s

/-! ## The Deadline Queue -/

/-- The number of entries that the walk of an INSERT passes: those with a deadline less than or equal to the new one
(R25, R29). -/
def walkLength (deadline : TimeCount) (q : List Entry) : Nat :=
  (q.takeWhile fun e => decide (e.deadline.toNat ≤ deadline.toNat)).length

/-- The list with a new entry placed where its walk stops (R25, R29). -/
def placeEntry (e : Entry) (q : List Entry) : List Entry :=
  q.take (walkLength e.deadline q) ++ e :: q.drop (walkLength e.deadline q)

/-- The slot's entry leaves the list (R31). -/
def State.removeEntry (n : SlotNo) (s : State) : State := { s with queue := s.queue.filter fun e => e.slot ≠ n }

/-- REMOVE(slot, state): the entry leaves the list, and the slot takes the named state (R31). -/
def State.remove (n : SlotNo) (r : Reservation) (run : Run) (s : State) : State :=
  (s.removeEntry n).setHeld n { r with run }

/-- The firing ends: the firing record is discarded, the Dispatch Unit is IDLE (R76), and a Line Monitor that was
HOLDING at the slot returns to APPLYING (R109). -/
def State.endFiring (s : State) : State :=
  { s with
    firing := none
    monitor := match s.monitor with
      | .holding rest => .applying rest true
      | m => m }

/-- The second stage of an INSERT: the entry is placed, the slot becomes ARMED at its deadline, and the queue is READY
(R29). -/
def State.place (i : Insertion) (s : State) : State :=
  let s := { s with queue := placeEntry { slot := i.slot, deadline := i.deadline } s.queue, insertion := none }
  match s.held i.slot with
  | some r => s.setHeld i.slot { r with run := .armed i.deadline i.windowStart }
  | none => s

/-- An INSERT completes, and with it the slot operation that contains it (R28): an ARM request, an edge
application, or the settling of a firing. (A record that this leaves with nothing to apply leaves in the same step,
`State.leaveIfApplied`.) -/
def State.finishInsert (i : Insertion) (s : State) : State :=
  let s := s.place i
  match i.client with
  | .engine p results => s.complete p .ok results
  | .lineMonitor => s.applicationDone
  | .dispatch => s.endFiring

/-- INSERT is taken: a walk that passes no entry completes at once, any other is in flight, with the due report
withdrawn, until its completion (R29). -/
def State.insert (i : Insertion) (s : State) : State :=
  if walkLength i.deadline s.queue = 0 then s.finishInsert i else { s with insertion := some i }

/-! ## Release and teardown -/

/-- The first work of a release: the entry of an ARMED slot leaves the queue (R11). -/
def State.removeArmed (n : SlotNo) (r : Reservation) (s : State) : State :=
  match r.run with
  | .armed .. => s.removeEntry n
  | _ => s

/-- The release of slot `n`, which holds `r` (R11): the queue entry of an ARMED slot, the binding, the output action, the
RELEASED notices, the slot and the owner's owned count, in one operation. -/
def State.release (n : SlotNo) (r : Reservation) (s : State) : State :=
  let s := s.removeArmed n r
  let s := s.unbindMode n r.mode
  let s := s.deliverWatchers (Notice.ofSlot .released n (s.slot n).generation r s.time) r.watchers
  let s := s.setSlot n { s.slot n with held := none }
  s.setQuota r.owner { s.quota r.owner with owned := (s.quota r.owner).owned - 1 }

/-- Step 1 of a teardown: the session becomes CLOSING and the notice list is emptied; the engine has the teardown in hand
(R139, R164). -/
def State.beginTeardown (p : PortNo) (close : Bool) (s : State) : State :=
  let s := s.setPort p (HostPort.drive { s.port p with session := .closing, notices := [], holdoffCounter := 0 })
  { s with engine := .teardown p close 0 0 none }

/-- The port stands in the watcher set of slot `n`. -/
def State.watches (s : State) (p : PortNo) (n : SlotNo) : Bool :=
  match s.held n with
  | some r => r.watchers[p]
  | none => false

/-- The port owns slot `n`. -/
def State.owns (s : State) (p : PortNo) (n : SlotNo) : Bool :=
  match s.held n with
  | some r => r.owner == p
  | none => false

/-- Every slot, in slot-number order. -/
def allSlots : List SlotNo := List.finRange 64

/-- Every port. -/
def allPorts : List PortNo := List.finRange 4

/-- The slot that the next slot operation of a teardown concerns: the lowest-numbered slot the port watches (step 3),
and when there is none, the lowest-numbered slot it owns (step 4) (R164). -/
def State.teardownSlot (s : State) (p : PortNo) : Option SlotNo :=
  match allSlots.find? (s.watches p) with
  | some n => some n
  | none => allSlots.find? (s.owns p)

/-- One slot operation of a teardown, and the number of slots it releases: a watcher removal, without a notice, or a
release (R164 steps 3 and 4). -/
def State.teardownOp (p : PortNo) (n : SlotNo) (s : State) : State × Nat :=
  match s.held n with
  | some r =>
    if r.watchers[p] then (s.setHeld n { r with watchers := r.watchers.set p false }, 0)
    else (s.release n r, 1)
  | none => (s, 0)

/-- The end of a claim: the line is driven to its idle level and becomes FREE (R119, R120). -/
def OutputLine.free (o : OutputLine) : OutputLine := { o with level := o.idleLevel, claim := none }

/-- The output lines that the port claims, in line-number order. -/
def State.claimedLines (s : State) (p : PortNo) : List LineNo := allLines.filter fun l => (s.output l).claim == some p

/-- Step 6 of a teardown: the port becomes DETACHED, and the request of a CLOSE completes, with the numbers of slots and of
output lines released, or the engine becomes FREE (R163, R164). -/
def State.endTeardown (p : PortNo) (close : Bool) (released lines : Nat) (s : State) : State :=
  let s := s.setPort p (HostPort.drive { s.port p with session := .detached })
  if close then
    s.complete p .ok [(s.port p).sessionNumber, BitVec.ofNat 8 released, BitVec.ofNat 8 lines]
  else { s with engine := .free }

/-- The next operation of the teardown in hand (R164): the freeing of authority (step 2); one removal or release (steps 3
and 4), which may have to wait (R148); the release of one output line (step 5); the last step (6). -/
def State.teardownStep (s : State) : State :=
  match s.engine with
  | .teardown p close released lines _ =>
    if s.authority = some p then { s with authority := none, engine := .teardown p close released lines none }
    else
      match s.teardownSlot p with
      | some n =>
        match s.waitsFor (some n) with
        | some w => { s with engine := .teardown p close released lines (some w) }
        | none => { (s.teardownOp p n).1 with engine := .teardown p close (released + (s.teardownOp p n).2) lines none }
      | none =>
        match (s.claimedLines p).head? with
        | some l => { s.setOutput l (s.output l).free with engine := .teardown p close released (lines + 1) none }
        | none => s.endTeardown p close released lines
  | _ => s

/-- A teardown goes on for at most `ops` operations, until it ends or one of its operations must wait (R148, R164). Events
may meet it between any two of them (R165; DESIGN CHOICE, notes/assumptions/7.md). -/
def State.runTeardown : Nat → State → State
  | 0, s => s
  | ops + 1, s =>
    match s.teardownStep.engine with
    | .teardown _ _ _ _ none => State.runTeardown ops s.teardownStep
    | _ => s.teardownStep

/-- The operations that a step of a teardown takes: as many as there are, or those before its pause. -/
def teardownFuel (pause : Option Nat) : Nat := pause.getD Config.teardownOps

end Sys2Proof.Machine
end

