-- ==== Sys2Proof/Machine/Slots.lean ====
section
/-! DEFINITION. The seven slot requests of section 1.4: RESERVE, RELEASE, SET_SHARE, WATCH, UNWATCH, QUERY and
GIVE_QUOTA. Each request that names a slot makes its checks at once and then offers one slot operation, which is taken
at once or after a wait (R5, R6). -/

namespace Sys2Proof.Machine

/-! ## The slot operations -/

/-- The lowest-numbered FREE slot (R10). -/
def State.freeSlot (s : State) : Option SlotNo := allSlots.find? fun n => (s.held n).isNone

/-- The reservation that RESERVE makes for its caller (R10). -/
def Reservation.fresh (owner : PortNo) : Reservation :=
  { owner, share := .priv, watchers := noWatchers, tag := 0, mode := .oneShot, action := none, fireCount := 0,
    run := .idle }

/-- The response that names a slot and its generation (R172). -/
def slotResult (n : SlotNo) (generation : Half) : List Byte := slotByte (some n) :: bytesBE 2 generation.toNat

/-- The slot operation of RESERVE (R10). A caller whose owned equals its quota is answered NO_QUOTA; while owned is below
quota there is a FREE slot (R8). -/
def State.reserveOp (p : PortNo) (s : State) : State :=
  match s.freeSlot, decide ((s.quota p).owned < (s.quota p).quota) with
  | some n, true =>
    let generation := (s.slot n).generation + 1
    let s := s.setSlot n { generation, held := some (Reservation.fresh p) }
    let s := s.setQuota p { s.quota p with owned := (s.quota p).owned + 1 }
    s.complete p .ok (slotResult n generation)
  | _, _ => s.refuse p .noQuota

/-- The slot operation of RELEASE (R11). -/
def State.releaseOp (p : PortNo) (n : SlotNo) (s : State) : State :=
  match s.held n with
  | some r => (s.release n r).complete p .ok (slotResult n (s.slot n).generation)
  | none => s.refuse p .badSlot

/-- The slot operation of SET_SHARE (R15, R16). -/
def State.setShareOp (p : PortNo) (n : SlotNo) (share : Share) (s : State) : State :=
  match s.held n with
  | some r =>
    let s :=
      if share = r.share then s
      else match share with
        | .opn => s.setHeld n { r with share := .opn }
        | .priv =>
          (s.setHeld n { r with share := .priv, watchers := noWatchers }).deliverWatchers
            (Notice.ofSlot .unwatched n (s.slot n).generation r s.time) r.watchers
    s.complete p .ok [share.code]
  | none => s.refuse p .badSlot

/-- The slot operation of WATCH (R17). -/
def State.watchOp (p : PortNo) (n : SlotNo) (s : State) : State :=
  match s.held n with
  | some r =>
    (s.setHeld n { r with watchers := r.watchers.set p true }).complete p .ok
      (bytesBE 2 (s.slot n).generation.toNat ++ [r.run.code])
  | none => s.refuse p .badSlot

/-- The slot operation of UNWATCH (R19). -/
def State.unwatchOp (p : PortNo) (n : SlotNo) (s : State) : State :=
  match s.held n with
  | some r => (s.setHeld n { r with watchers := r.watchers.set p false }).complete p .ok []
  | none => s.refuse p .badSlot

/-- The slot operation of QUERY: the record as it stands when the operation is taken (R20). -/
def State.queryOp (p : PortNo) (n : SlotNo) (s : State) : State :=
  match s.held n with
  | some r => s.complete p .ok (r.record n (s.slot n).generation)
  | none => s.refuse p .badSlot

/-- A request on a slot that only its owner may make: BAD_SLOT and NOT_OWNER are answered at once, and otherwise the
slot operation is offered (R6, R9). -/
def State.ownerRequest (p : PortNo) (v : Nat) (op : SlotNo → SlotOp) (k : SlotNo → State → State) (s : State) :
    State :=
  match s.namedSlot v with
  | none => s.refuse p .badSlot
  | some (n, r) => if r.owner = p then s.offer p (some n) (op n) (k n) else s.refuse p .notOwner

/-! ## The requests -/

/-- RESERVE takes the lowest-numbered FREE slot for the caller (R10). -/
def execReserve (s : State) : Host.Outcome State Fault Refusal :=
  s.live fun s => s.serve .reserve fun p _ s =>
    if (s.quota p).owned < (s.quota p).quota then s.offer p none .reserve (State.reserveOp p)
    else s.refuse p .noQuota

/-- RELEASE(slot) returns a slot the caller owns to FREE (R9, R11). -/
def execRelease (s : State) : Host.Outcome State Fault Refusal :=
  s.live fun s => s.serve .release fun p params s =>
    s.ownerRequest p (byteAt params 0) SlotOp.release (State.releaseOp p)

/-- SET_SHARE(slot, share): a share other than PRIVATE or OPEN is BAD_PARAM (R9, R15, R16). -/
def execSetShare (s : State) : Host.Outcome State Fault Refusal :=
  s.live fun s => s.serve .setShare fun p params s =>
    match Share.ofCode (byteAt params 1) with
    | none => s.refuse p .badParam
    | some share =>
      s.ownerRequest p (byteAt params 0) (fun n => SlotOp.setShare n share) (fun n => State.setShareOp p n share)

/-- WATCH(slot) adds the caller to the watcher set of another port's OPEN slot (R9, R17). -/
def execWatch (s : State) : Host.Outcome State Fault Refusal :=
  s.live fun s => s.serve .watch fun p params s =>
    match s.namedSlot (byteAt params 0) with
    | none => s.refuse p .badSlot
    | some (n, r) =>
      if r.owner = p then s.refuse p .badParam
      else if r.share = .priv then s.refuse p .priv
      else s.offer p (some n) (.watch n) (State.watchOp p n)

/-- UNWATCH(slot) removes the caller from a slot's watcher set (R9, R19). -/
def execUnwatch (s : State) : Host.Outcome State Fault Refusal :=
  s.live fun s => s.serve .unwatch fun p params s =>
    match s.namedSlot (byteAt params 0) with
    | none => s.refuse p .badSlot
    | some (n, r) =>
      if r.watchers[p] then s.offer p (some n) (.unwatch n) (State.unwatchOp p n) else s.refuse p .state

/-- QUERY(slot) returns the slot record to the owner, or to any port when share is OPEN (R9, R20). -/
def execQuery (s : State) : Host.Outcome State Fault Refusal :=
  s.live fun s => s.serve .query fun p params s =>
    match s.namedSlot (byteAt params 0) with
    | none => s.refuse p .badSlot
    | some (n, r) =>
      if r.owner = p ∨ r.share = .opn then s.offer p (some n) (.query n) (State.queryOp p n)
      else s.refuse p .notOwner

/-- GIVE_QUOTA(port, n) moves n units of unused quota from the caller to another port, in one operation of the quota
table; it names no slot and never waits (R21). -/
def execGiveQuota (s : State) : Host.Outcome State Fault Refusal :=
  s.live fun s => s.serve .giveQuota fun p params s =>
    match giveQuotaOf params with
    | none => s.refuse p .badParam
    | some (dest, n) =>
      if h : dest < 4 then
        if (⟨dest, h⟩ : PortNo) = p then s.refuse p .badParam
        else if (s.quota p).quota - (s.quota p).owned < n then s.refuse p .noQuota
        else
          let s := s.setQuota p { s.quota p with quota := (s.quota p).quota - n }
          let s := s.setQuota ⟨dest, h⟩ { s.quota ⟨dest, h⟩ with quota := (s.quota ⟨dest, h⟩).quota + n }
          s.complete p .ok [BitVec.ofNat 8 (s.quota p).quota, BitVec.ofNat 8 (s.quota p).owned]
      else s.refuse p .badParam

end Sys2Proof.Machine
end

