-- ==== Sys2Proof/Machine/Timers.lean ====
section
/-! DEFINITION. CONFIGURE, ARM and DISARM (sections 3.2 to 3.4). -/

namespace Sys2Proof.Machine

/-! ## CONFIGURE -/

/-- The output action of a CONFIGURE names a line that the slot's owner claims, or there is none (R40 step 5). -/
def State.actionClaimed (s : State) (owner : PortNo) : Option OutputAction → Bool
  | none => true
  | some a => (s.output a.line).claim == some owner

/-- The binding list of the mode's line already holds eight slots, slot `n` not among them (R40 step 6). -/
def State.bindingFull (s : State) (n : SlotNo) (m : Mode) : Bool :=
  match m.line with
  | none => false
  | some l => decide (Config.bindingMax ≤ (s.input l).bindings.length) && !(s.input l).bindings.contains n

/-- The slot operation of CONFIGURE: steps 4 to 6 of R40, and the change of R41. -/
def State.configureOp (p : PortNo) (n : SlotNo) (mode : Mode) (tag : Word) (action : Option OutputAction) (s : State) :
    State :=
  match s.held n with
  | none => s.refuse p .badSlot
  | some r =>
    if r.run ≠ .idle then s.refuse p .state
    else if !s.actionClaimed r.owner action then s.refuse p .notClaimed
    else if s.bindingFull n mode then s.refuse p .lineFull
    else
      let s := (s.rebind n r.mode mode).setHeld n { r with mode, tag, action }
      s.complete p .ok (slotResult n (s.slot n).generation)

/-- CONFIGURE(slot, mode, parameters, tag, output action) (R40, R41). -/
def execConfigure (s : State) : Host.Outcome State Fault Refusal :=
  s.live fun s => s.serve .configure fun p params s =>
    match configureOf params with
    | none => s.refuse p .badParam
    | some (mode, tag, action) =>
      s.ownerRequest p (byteAt params 0) (fun n => SlotOp.configure n mode tag action)
        (fun n => State.configureOp p n mode tag action)

/-! ## ARM -/

/-- The result of an ARM answered OK (R42, R172). -/
def armResult (generation : Half) (run : Run) (now : TimeCount) : List Byte :=
  bytesBE 2 generation.toNat ++ [run.code] ++ bytesBE 8 run.deadlineField.toNat
    ++ bytesBE 4 run.remainingField.toNat ++ bytesBE 8 now.toNat

/-- The slot as an arming leaves it before it starts: generation one higher, fire count 0 (R3, R42). -/
def State.raiseGeneration (n : SlotNo) (r : Reservation) (s : State) : State :=
  s.setSlot n { generation := (s.slot n).generation + 1, held := some { r with fireCount := 0 } }

/-- An ARM that enters the Deadline Queue (R44, R45): its request completes with the insertion (R148). DESIGN CHOICE
(notes/assumptions/19.md): the raised generation and the cleared fire count are written when the ARM is taken, and so
stand in the record, where an EDGE_LOST reads the generation, while the insertion walks; R29 places only the deadline,
the state and the window start at its completion. -/
def State.armAt (p : PortNo) (n : SlotNo) (r : Reservation) (deadline : TimeCount) (s : State) : State :=
  let results := armResult ((s.slot n).generation + 1) (.armed deadline none) s.time
  let s := s.raiseGeneration n r
  State.insert { slot := n, deadline, windowStart := none, client := .engine p results }
    { s with engine := .inserting p }

/-- An ARM that enters no queue: the slot becomes PAUSED or WAITING (R45, R46). -/
def State.armIn (p : PortNo) (n : SlotNo) (r : Reservation) (run : Run) (s : State) : State :=
  let results := armResult ((s.slot n).generation + 1) run s.time
  ((s.raiseGeneration n r).setHeld n { r with fireCount := 0, run }).complete p .ok results

/-- An ARM at a deadline under its past policy (R43, R44). -/
def State.armTimed (p : PortNo) (n : SlotNo) (r : Reservation) (deadline : TimeCount) (refuse : Bool) (s : State) :
    State :=
  if refuse ∧ deadline.toNat ≤ s.time.toNat then
    (s.raiseGeneration n r).complete p .past
      (bytesBE 2 ((s.slot n).generation + 1).toNat ++ bytesBE 8 s.time.toNat)
  else s.armAt p n r deadline

/-- The slot operation of ARM: the STATE check, the form's match with the mode, RANGE, and the start of R44 to R46
(R42, R171). -/
def State.armOp (p : PortNo) (n : SlotNo) (form : ArmForm) (s : State) : State :=
  match s.held n with
  | none => s.refuse p .badSlot
  | some r =>
    if r.run ≠ .idle then s.refuse p .state
    else if !form.suits r.mode then s.refuse p .badParam
    else match form with
      | .absolute time refuse => s.armTimed p n r time refuse
      | .relative time refuse =>
        if Config.timeMax < s.time.toNat + time.toNat then s.refuse p .range
        else s.armTimed p n r (satTime (s.time.toNat + time.toNat)) refuse
      | .duration ticks =>
        match r.mode with
        | .gated line active _ _ =>
          if (s.input line).processed = active then
            if Config.timeMax < s.time.toNat + ticks.toNat then s.refuse p .range
            else s.armAt p n r (satTime (s.time.toNat + ticks.toNat))
          else s.armIn p n r (.paused ticks)
        | _ => s.refuse p .badParam
      | .none => s.armIn p n r .waiting

/-- ARM(slot, parameters) starts a slot the caller owns (R42 to R46). -/
def execArm (s : State) : Host.Outcome State Fault Refusal :=
  s.live fun s => s.serve .arm fun p params s =>
    match armFormOf params with
    | none => s.refuse p .badParam
    | some form =>
      s.ownerRequest p (byteAt params 0) (fun n => SlotOp.arm n form) (fun n => State.armOp p n form)

/-! ## DISARM -/

/-- The deadline of an ARMED slot, which the CANCELLED notice carries as its ref (R48). -/
def Run.armedDeadline : Run → Option TimeCount
  | .armed d _ => some d
  | _ => none

/-- The slot operation of DISARM (R47, R48). -/
def State.disarmOp (p : PortNo) (n : SlotNo) (s : State) : State :=
  match s.held n with
  | none => s.refuse p .badSlot
  | some r =>
    let results := bytesBE 2 r.fireCount.toNat ++ [r.run.code]
    if r.run = .idle then s.complete p .notArmed results
    else
      let notice := { Notice.ofSlot .cancelled n (s.slot n).generation r s.time with
        ref := r.run.armedDeadline, value := some (BitVec.ofNat 32 r.fireCount.toNat) }
      ((s.remove n r .idle).deliverWatchers notice r.watchers).complete p .ok results

/-- DISARM(slot) stops a slot the caller owns and returns it to IDLE (R47). -/
def execDisarm (s : State) : Host.Outcome State Fault Refusal :=
  s.live fun s => s.serve .disarm fun p params s =>
    s.ownerRequest p (byteAt params 0) SlotOp.disarm (State.disarmOp p)

end Sys2Proof.Machine
end

