-- ==== Sys2Proof/Machine/Timebase.lean ====
section
/-! DEFINITION. The Timebase Unit (chapter 5): time authority, STEP, SLEW, CANCEL_SLEW, SET_DIVISOR, REFCLK edges and
tick events, and the synchronizers and holdoff counters that go with them. -/

namespace Sys2Proof.Machine

/-! ## Requests of the timebase -/

/-- TAKE_AUTHORITY (R89). -/
def execTakeAuthority (s : State) : Host.Outcome State Fault Refusal :=
  s.live fun s => s.serve .takeAuthority fun p _ s =>
    match s.authority with
    | none => State.complete p .ok [portByte (some p)] { s with authority := some p }
    | some q => if q = p then s.complete p .ok [portByte (some p)] else s.complete p .authHeld [portByte (some q)]

/-- YIELD_AUTHORITY (R90). -/
def execYieldAuthority (s : State) : Host.Outcome State Fault Refusal :=
  s.live fun s => s.serve .yieldAuthority fun p _ s =>
    if s.authority = some p then State.complete p .ok [] { s with authority := none } else s.refuse p .noAuthority

/-- The checks of R88 that come before a request's own: its parameters, then time authority. -/
def State.withAuthority {α : Type} (p : PortNo) (params : Option α) (k : α → State → State) (s : State) : State :=
  match params with
  | none => s.refuse p .badParam
  | some a => if s.authority = some p then k a s else s.refuse p .noAuthority

/-- The STEPPED notice of a step by `delta` from `old` (R93). -/
def Notice.stepped (old : TimeCount) (delta : Nat) : Notice :=
  { Notice.bare .stepped (BitVec.ofNat 64 (old.toNat + delta)) old (BitVec.ofNat 32 delta) with
    big := decide (2 ^ 32 ≤ delta) }

/-- The ports that are OPEN. -/
def State.openPorts (s : State) : List PortNo := allPorts.filter fun p => (s.port p).session == .opened

/-- STEP(delta) advances the time count by delta at once and delivers STEPPED to every OPEN port (R92, R93). -/
def execStepTime (s : State) : Host.Outcome State Fault Refusal :=
  s.live fun s => s.serve .stepTime fun p params s =>
    s.withAuthority p (stepOf params) fun delta s =>
      if s.slew.isSome then s.refuse p .slewing
      else if Config.timeMax < s.time.toNat + delta then s.refuse p .range
      else
        let old := s.time
        let s := { s with time := BitVec.ofNat 64 (old.toNat + delta) }
        let s := s.openPorts.foldl (State.deliver (Notice.stepped old delta)) s
        s.complete p .ok (bytesBE 8 old.toNat ++ bytesBE 8 s.time.toNat)

/-- SLEW(amount, span) creates the slew record (R95). -/
def execSlew (s : State) : Host.Outcome State Fault Refusal :=
  s.live fun s => s.serve .slew fun p params s =>
    s.withAuthority p (slewOf params) fun (amount, span) s =>
      if s.slew.isSome then s.refuse p .slewing
      else
        State.complete p .ok (bytesBE 8 s.time.toNat)
          { s with slew := some { initiator := p, amount, span, remaining := amount, ticksRemaining := span,
                                  accumulator := 0, startCount := s.time } }

/-- The SLEW_DONE notice of a slew that ends at `now` (R97). -/
def Notice.slewDone (r : Slew) (now : TimeCount) : Notice :=
  Notice.bare .slewDone now r.startCount (BitVec.ofInt 32 r.remaining)

/-- The slew ends: its record is discarded, and SLEW_DONE is delivered to the initiator (R97). -/
def State.endSlew (r : Slew) (s : State) : State :=
  State.deliver (Notice.slewDone r s.time) { s with slew := none } r.initiator

/-- CANCEL_SLEW ends a slew before its span has run (R98). -/
def execCancelSlew (s : State) : Host.Outcome State Fault Refusal :=
  s.live fun s => s.serve .cancelSlew fun p _ s =>
    s.withAuthority p (some ()) fun _ s =>
      match s.slew with
      | none => s.refuse p .state
      | some r => (s.endSlew r).complete p .ok (bytesBE 4 (BitVec.ofInt 32 r.remaining).toNat)

/-- SET_DIVISOR(divisor) sets the pending divisor (R87). -/
def execSetDivisor (s : State) : Host.Outcome State Fault Refusal :=
  s.live fun s => s.serve .setDivisor fun p params s =>
    s.withAuthority p (divisorOf params) fun divisor s =>
      State.complete p .ok (bytesBE 2 divisor) { s with pendingDivisor := some divisor }

/-! ## REFCLK -/

/-- One REFCLK rising edge at the synchronizer of a line (R103). -/
def InputLine.sample (level : Level) (i : InputLine) : InputLine := { i with stage1 := level, stage2 := i.stage1 }

/-- The synchronizers sample the pins. An edge that the REFCLK edge before this one brought about, and that is still
to be recognized, is recognized first: recognition belongs to its own REFCLK edge (R103). -/
def State.sampleInputs (pins : BitVec 8) (s : State) : State :=
  let s := s.recognizeAll allLines
  { s with inputs := Vector.ofFn fun l => (s.input l).sample (pinLevel pins l) }

/-- The next REFCLK rising edge brings the divider count to the divisor, and is a tick event (R85). -/
def State.tickNext (s : State) : Bool := decide (s.divisor ≤ s.divider + 1)

/-- One tick of a slew (R96): the record after it, and the advance of the time count. -/
def Slew.tick (r : Slew) : Slew × Nat :=
  let sum := r.accumulator + r.amount.natAbs
  let r := { r with ticksRemaining := r.ticksRemaining - 1 }
  if r.span ≤ sum then
    if 0 < r.amount then ({ r with accumulator := sum - r.span, remaining := r.remaining - 1 }, 2)
    else ({ r with accumulator := sum - r.span, remaining := r.remaining + 1 }, 0)
  else ({ r with accumulator := sum }, 1)

/-- One tick event at a port's holdoff counter (R135). -/
def HostPort.countTick (p : HostPort) : HostPort :=
  if p.notices.isEmpty then p
  else HostPort.drive { p with holdoffCounter := satHalf (p.holdoffCounter.toNat + 1) }

/-- One tick event at every port's holdoff counter (R86, R135). -/
def State.countHoldoffs (s : State) : State := { s with ports := Vector.ofFn fun p => (s.port p).countTick }

/-- The end of a division (R85): the divider count returns to 0, and a pending divisor takes effect. -/
def State.endDivision (s : State) : State :=
  { s with divider := 0, tickDue := false, divisor := s.pendingDivisor.getD s.divisor, pendingDivisor := none }

/-- The advance of the time count and the count of the holdoffs at a tick event (R86, R96). A slew whose last tick this
is ends in it, with SLEW_DONE arriving before or after the holdoff counters count the tick (R97, R135). -/
def State.advance (doneFirst : Bool) (s : State) : State :=
  match s.slew with
  | none => State.countHoldoffs { s with time := satTime (s.time.toNat + 1) }
  | some r =>
    let (r, step) := r.tick
    let s := { s with time := satTime (s.time.toNat + step), slew := some r }
    if r.ticksRemaining = 0 then
      if doneFirst then (s.endSlew r).countHoldoffs else s.countHoldoffs.endSlew r
    else s.countHoldoffs

/-- The tick event of a REFCLK edge whose levels the synchronizers have sampled (R85, R86, R103): the edges of the lines
below `early` are recognized, the division ends, and the time count advances. -/
def State.takeTick (early : Nat) (doneFirst : Bool) (s : State) : State :=
  (s.recognizeBelow early).endDivision.advance doneFirst

/-- The next tick event (R85, R86, R103): the one that is due at a REFCLK edge that has come already, or the one of a
REFCLK edge that comes now and brings the divider count to the divisor. -/
def State.tick (pins : BitVec 8) (early : Nat) (doneFirst : Bool) (s : State) : State :=
  if s.tickDue then s.takeTick early doneFirst
  else if s.tickNext then (s.sampleInputs pins).takeTick early doneFirst
  else s

/-- TICK_EVENT: the REFCLK rising edge that brings the divider count to the divisor (R85, R86, R96), or only its tick, where
that is due and its levels have been sampled (notes/assumptions/10.md). Where the next REFCLK edge does not bring the count
there and no tick is due there is no tick event to take, and nothing changes. -/
def execTickEvent (pins : BitVec 8) (early : Nat) (doneFirst : Bool) (s : State) :
    Host.Outcome State Fault Refusal :=
  s.live (State.tick pins early doneFirst)

/-- SLEW_END: the tick event that brings a slew's ticks remaining to 0, in which the slew ends (R96, R97). A record whose
ticks remaining already stand at 0 is ended as it stands. Where no slew is about to end nothing changes. -/
def execSlewEnd (pins : BitVec 8) (early : Nat) (doneFirst : Bool) (s : State) : Host.Outcome State Fault Refusal :=
  s.live fun s =>
    match s.slew with
    | none => s
    | some r =>
      if r.ticksRemaining = 0 then s.endSlew r
      else if r.ticksRemaining = 1 then s.tick pins early doneFirst
      else s

/-- One REFCLK rising edge: an edge that brings the divider count to the divisor is a tick event, which is taken at once or,
with `tickLater`, is due, so that other operations come ahead of it (R84, R103); any other edge is counted (R85). -/
def State.refclkEdge (pins : BitVec 8) (tickLater : Bool) (s : State) : State :=
  if s.tickNext then
    if tickLater then { s.sampleInputs pins with tickDue := true } else (s.sampleInputs pins).takeTick 0 false
  else { s.sampleInputs pins with divider := s.divider + 1 }

/-- REFCLK_RISING_EDGE: the synchronizers sample and the divider count increases by 1; an edge that brings the count to
the divisor is a tick event (R85, R103). A tick that is still due is that of the edge before and is taken first. While
RSTn is asserted the synchronizers keep sampling, no edge is recognized and none is counted (R122, R168). -/
def execRefclkRisingEdge (pins : BitVec 8) (s : State) (tickLater : Bool := false) : Host.Outcome State Fault Refusal :=
  .next <|
    if s.rstn then
      { s with inputs := Vector.ofFn fun l =>
          let line := (s.input l).sample (pinLevel pins l)
          { line with synchronized := line.stage2, processed := line.stage2 } }
    else State.refclkEdge pins tickLater (if s.tickDue then s.takeTick 0 false else s)

/-- HOLDOFF_EXPIRED: the holdoff counter has reached a holdoff above 0, and ATTNn is asserted if the other terms of R137
hold. Expiry is a condition (R136): where it does not hold nothing changes. -/
def execHoldoffExpired (p : PortNo) (s : State) : Host.Outcome State Fault Refusal :=
  s.live fun s => if (s.port p).holdoffExpired then s.setPort p (s.port p).drive else s

end Sys2Proof.Machine
end

