-- ==== Sys2Proof/Machine/Lines.lean ====
section
/-! DEFINITION. Output lines (section 6.6), edge recognition, the taking of edge records and their application to slots
(sections 6.2 to 6.4 and 3.5). -/

namespace Sys2Proof.Machine

/-! ## Output lines -/

/-- CLAIM_OUTPUT(line, idle level) (R117). -/
def execClaimOutput (s : State) : Host.Outcome State Fault Refusal :=
  s.live fun s => s.serve .claimOutput fun p params s =>
    match lineLevelOf params with
    | none => s.refuse p .badParam
    | some (line, idleLevel) =>
      let o := s.output line
      match o.claim with
      | some q =>
        if q = p then
          (s.setOutput line { o with idleLevel }).complete p .ok [lineByte line, o.level.code, idleLevel.code]
        else s.complete p .lineHeld [portByte (some q)]
      | none =>
        (s.setOutput line { o with claim := some p, idleLevel }).complete p .ok
          [lineByte line, o.level.code, idleLevel.code]

/-- DRIVE_OUTPUT(line, level) (R118). -/
def execDriveOutput (s : State) : Host.Outcome State Fault Refusal :=
  s.live fun s => s.serve .driveOutput fun p params s =>
    match lineLevelOf params with
    | none => s.refuse p .badParam
    | some (line, level) =>
      let o := s.output line
      if o.claim = some p then (s.setOutput line { o with level }).complete p .ok [level.code]
      else s.refuse p .notClaimed

/-- A slot of the port holds an output action that names the line (R119). -/
def State.actionNames (s : State) (p : PortNo) (line : LineNo) : Bool :=
  allSlots.any fun n =>
    match s.held n with
    | some r => r.owner == p && (r.action.map (·.line)) == some line
    | none => false

/-- RELEASE_OUTPUT(line) (R119). -/
def execReleaseOutput (s : State) : Host.Outcome State Fault Refusal :=
  s.live fun s => s.serve .releaseOutput fun p params s =>
    match lineOf (byteAt params 0) with
    | none => s.refuse p .badParam
    | some line =>
      let o := s.output line
      if o.claim ≠ some p then s.refuse p .notClaimed
      else if s.actionNames p line then s.refuse p .lineBound
      else (s.setOutput line o.free).complete p .ok [o.idleLevel.code]

/-! ## Recognition -/

/-- EDGE_RECOGNIZED: the edge of a line whose synchronizer has taken a new level is recognized. Edges of several lines
are decided in line-number order: while a lower-numbered line's edge waits, and where the line has no edge, nothing
changes (R103, R104). -/
def execEdgeRecognized (line : LineNo) (s : State) : Host.Outcome State Fault Refusal :=
  s.live fun s =>
    if s.edgePending line ∧ ∀ l < line, s.edgePending l = false then s.recognize line else s

/-! ## Taking a record -/

/-- The lost-edge report of a record's take: one EDGE_LOST to the owner of each bound slot, in list order (R110). -/
def State.reportLost (rec : EdgeRecord) (s : State) : State :=
  let i := s.input rec.line
  if i.lost = 0 then s
  else
    let s := i.bindings.foldl (fun s n =>
      match s.held n with
      | some r =>
        s.deliver { Notice.ofSlot .edgeLost n (s.slot n).generation r s.time with
          ref := some rec.timestamp, value := some (BitVec.ofNat 32 i.lost.toNat) } r.owner
      | none => s) s
    s.setInput rec.line { s.input rec.line with lost := 0 }

/-- The slot's mode is GATED; a level record is applied to these slots alone (R111). -/
def State.isGated (s : State) (n : SlotNo) : Bool :=
  match s.held n with
  | some r => r.mode.isGated
  | none => false

/-- The application set of a record (R111). -/
def State.applicationSet (rec : EdgeRecord) (s : State) : List SlotNo :=
  match rec.kind with
  | .edge => (s.input rec.line).bindings
  | .level => (s.input rec.line).bindings.filter s.isGated

/-- RECORD_TAKE: in READY, the Line Monitor takes the head record, reports lost edges, sets the processed level and
fixes the application set. A record whose set is empty leaves the FIFO at once (R109, R110, R111, R113). -/
def execRecordTake (s : State) (early : Nat := 0) : Host.Outcome State Fault Refusal :=
  s.live fun s =>
    match s.monitor, s.fifo with
    | .ready, rec :: _ =>
      let s := s.reportLost rec
      let s := s.setInput rec.line { s.input rec.line with processed := rec.direction.level }
      State.leaveIfApplied early { s with monitor := .applying (s.applicationSet rec) false }
    | _, _ => s

/-! ## Applying a record to a slot -/

/-- The remaining ticks of a pause: the deadline minus the timestamp, capped at 2^32−1, and 0 when the deadline is not
later than the timestamp (R51). -/
def pauseRemaining (deadline timestamp : TimeCount) : Word := satWord (deadline.toNat - timestamp.toNat)

/-- The insertion that an edge application makes, `ticks` after the record's timestamp (R50, R51, R53, R55). -/
def edgeInsertion (n : SlotNo) (timestamp : TimeCount) (ticks : Word) (windowStart : Option TimeCount) : Insertion :=
  { slot := n, deadline := satTime (timestamp.toNat + ticks.toNat), windowStart, client := .lineMonitor }

/-- A record at a GATED slot (R51). -/
def State.applyGated (rec : EdgeRecord) (n : SlotNo) (r : Reservation) (active : Level) (s : State) : State :=
  match r.run, decide (rec.direction.level = active) with
  | .paused remaining, true => s.insert (edgeInsertion n rec.timestamp remaining none)
  | .armed deadline _, false => (s.remove n r (.paused (pauseRemaining deadline rec.timestamp))).applicationDone
  | _, _ => s.applicationDone

/-- A matching record starts or restarts a TRIGGERED slot: REMOVE naming WAITING when it is ARMED, fire count 0, and
INSERT at the timestamp plus the delay (R33, R53). DESIGN CHOICE (notes/assumptions/19.md): the fire count 0 is written
when the INSERT is taken, and so stands in the record while the insertion walks; R29 places only the deadline, the state
and the window start at its completion. -/
def State.startTriggered (rec : EdgeRecord) (n : SlotNo) (r : Reservation) (delay : Word) (s : State) : State :=
  (s.remove n { r with fireCount := 0 } .waiting).insert (edgeInsertion n rec.timestamp delay none)

/-- A record of kind EDGE at a TRIGGERED slot (R53). -/
def State.applyTriggered (rec : EdgeRecord) (n : SlotNo) (r : Reservation) (edge : TriggerEdge) (delay : Word)
    (restart : Bool) (s : State) : State :=
  if edge.matchesDir rec.direction then
    match r.run, restart with
    | .waiting, _ => s.startTriggered rec n r delay
    | .armed _ _, true => s.startTriggered rec n r delay
    | _, _ => s.applicationDone
  else s.applicationDone

/-- The notice of a window that an end record closes: WINDOW_SHORT or WINDOW_END (R57). -/
def Notice.window (kind : NoticeKind) (n : SlotNo) (generation : Half) (r : Reservation) (rec : EdgeRecord)
    (start : TimeCount) (final : Bool) : Notice :=
  { Notice.ofSlot kind n generation r rec.timestamp with
    ref := some start, value := some (satWord (rec.timestamp.toNat - start.toNat)), count := some r.fireCount, final }

/-- The notice of a closing window is delivered when the report set has it (R55, R57). -/
def State.reportWindow (rec : EdgeRecord) (n : SlotNo) (r : Reservation) (kind : NoticeKind) (wanted : Bool)
    (start : TimeCount) (rewait : Bool) (s : State) : State :=
  if wanted then s.deliverAll (Notice.window kind n (s.slot n).generation r rec start (!rewait)) r else s

/-- A start record opens a window (R55, R56). -/
def State.openWindow (rec : EdgeRecord) (n : SlotNo) (limit : Word) (s : State) : State :=
  s.insert (edgeInsertion n rec.timestamp limit (some rec.timestamp))

/-- The slot of a window that closes: a REMOVE takes an ARMED slot's entry out (R55). A LAPSED slot that the same record
opens again stays LAPSED until its INSERT completes (R28, R56). -/
def State.endWindow (n : SlotNo) (r : Reservation) (rewait again : Bool) (s : State) : State :=
  match r.run, again with
  | .lapsed _, true => s
  | _, _ => s.remove n r (if rewait then .waiting else .idle)

/-- An end record closes the window of a WINDOW slot (R55). With equal start and end edges and rewait YES the same
record opens the next window, in the same slot operation (R56). -/
def State.closeWindow (rec : EdgeRecord) (n : SlotNo) (r : Reservation) (kind : NoticeKind) (wanted : Bool)
    (start : TimeCount) (rewait reopen : Bool) (limit : Word) (s : State) : State :=
  let again := reopen && rewait
  let s := (s.endWindow n r rewait again).reportWindow rec n r kind wanted start rewait
  if again then s.openWindow rec n limit else s.applicationDone

/-- A record of kind EDGE at a WINDOW slot (R55, R56). -/
def State.applyWindow (rec : EdgeRecord) (n : SlotNo) (r : Reservation) (startEdge endEdge : Direction) (limit : Word)
    (report : ReportSet) (rewait : Bool) (s : State) : State :=
  let reopen := decide (startEdge = endEdge)
  if rec.direction = startEdge ∧ r.run = .waiting then s.openWindow rec n limit
  else if rec.direction = endEdge then
    match r.run with
    | .armed _ start => s.closeWindow rec n r .windowShort report.short (start.getD 0) rewait reopen limit
    | .lapsed start => s.closeWindow rec n r .windowEnd report.ends start rewait reopen limit
    | _ => s.applicationDone
  else s.applicationDone

/-- The application of a record to a bound slot that is not FIRING, as one slot operation (R50, R111). -/
def State.applyRecord (rec : EdgeRecord) (n : SlotNo) (s : State) : State :=
  match s.held n with
  | none => s.applicationDone
  | some r =>
    match r.mode, rec.kind with
    | .gated _ active _ _, _ => s.applyGated rec n r active
    | .triggered _ edge delay _ _ restart _, .edge => s.applyTriggered rec n r edge delay restart
    | .window _ startEdge endEdge limit report rewait, .edge =>
      s.applyWindow rec n r startEdge endEdge limit report rewait
    | _, _ => s.applicationDone

/-- The Line Monitor offers the application whose turn it is. It waits while an insertion is in flight (R28), and the
Line Monitor goes to HOLDING at a FIRING slot (R112). -/
def State.offerApplication (s : State) : State :=
  match s.monitor, s.fifo with
  | .applying (n :: rest) _, rec :: _ =>
    match s.waitsFor (some n) with
    | some .insertion => s
    | some (.firing _) => { s with monitor := .holding (n :: rest) }
    | none => s.applyRecord rec n
  | _, _ => s

/-- The Line Monitor goes on with the record in hand, which leaves when nothing is left in its set (R111, R113). -/
def State.goOn (early : Nat) (s : State) : State := s.offerApplication.leaveIfApplied early

/-- EDGE_APPLICATION: the record in hand is applied to the slot whose turn it is (R50, R111). In READY and in HOLDING
there is no application to make, and nothing changes. -/
def execEdgeApplication (s : State) (early : Nat := 0) : Host.Outcome State Fault Refusal := s.live (State.goOn early)

end Sys2Proof.Machine
end

