-- ==== Sys2Proof/Machine/Firing.lean ====
section
/-! DEFINITION. The Dispatch Unit's firings (chapter 4) and the completion of insertions (R29). -/

namespace Sys2Proof.Machine

/-- The notice of a firing (R72). -/
def FiringRecord.notice (f : FiringRecord) (kind : NoticeKind) (generation : Half) (r : Reservation) : Notice :=
  { Notice.ofSlot kind f.slot generation r f.takeTime with
    ref := some f.deadline, value := some (satWord f.late.toNat), count := some f.fireCount,
    missed := if kind = .expired then some f.missed else none,
    late := decide (0 < f.late.toNat), final := kind == .expired && f.final }

/-- The copy of the notice for port `q`: a watcher's carries WATCHED (R73). -/
def FiringRecord.copy (f : FiringRecord) (kind : NoticeKind) (generation : Half) (r : Reservation) (q : PortNo) : Notice :=
  { f.notice kind generation r with watched := q != r.owner }

/-- The second stage of a firing: the copies still due to these ports are delivered, and are no longer due (R72, R73). -/
def State.deliverCopies (ports : BitVec 4) (s : State) : State :=
  match s.firing with
  | some f =>
    match f.noticeKind, s.held f.slot with
    | some kind, some r =>
      let generation := (s.slot f.slot).generation
      (allPorts.filter fun (q : PortNo) => f.copiesDue[q] && ports.getLsbD q).foldl
        (fun s q => s.deliver (f.copy kind generation r q) q)
        { s with firing := some { f with copiesDue := Vector.ofFn fun (q : PortNo) => f.copiesDue[q] && !ports.getLsbD q } }
    | _, _ => s
  | none => s

/-- The third stage of a firing: its output action, when it is still due, is applied (R74, R120). -/
def State.applyAction (s : State) : State :=
  match s.firing with
  | some f =>
    match (s.held f.slot).bind (·.action) with
    | some a =>
      if f.actionDue then
        State.setOutput { s with firing := some { f with actionDue := false } } a.line
          { s.output a.line with level := a.action.apply (s.output a.line).level }
      else s
    | none => s
  | none => s

/-- The second and third stages of a firing, as far as they are still to be made: every copy, and then the output action. -/
def State.notifyAndAct (s : State) : State := (s.deliverCopies (BitVec.allOnes 4)).applyAction

/-- The output action is due, and a copy that is due to one of these ports would arrive in the queue of an OPEN port. -/
def State.actionHeard (ports : BitVec 4) (s : State) : Bool :=
  match s.firing with
  | some f => f.actionDue && allPorts.any fun (q : PortNo) =>
      f.copiesDue[q] && ports.getLsbD q && (s.port q).session == .opened
  | none => false

/-- The firing in progress goes on up to this stage (R72 to R74, R77; the cut into steps is notes/assumptions/6.md). Once
a notice of the firing has arrived in a host's queue the host finds the output action applied (R74): while the action is
due, such an arrival brings with it the copies that are left and the action. -/
def State.carryFiring (upTo : FiringStage) (s : State) : State :=
  match upTo with
  | .copies ports => if s.actionHeard ports then s.notifyAndAct else s.deliverCopies ports
  | .action => s.notifyAndAct

/-- TAKE_HEAD: the idle Dispatch Unit takes the due head. The entry leaves the list, its slot becomes FIRING, and the firing
record is filled in (R32, R65 to R70); the firing goes on from there up to the stage named, and SETTLING carries it further
(R72 to R74, R77). While the unit is BUSY, and where nothing is due, there is no take, and nothing changes (R64, R65). -/
def execTakeHead (s : State) (upTo : FiringStage := .action) : Host.Outcome State Fault Refusal :=
  s.live fun s =>
    match s.firing, s.queue with
    | none, e :: rest =>
      if s.due then
        match s.held e.slot with
        | some r =>
          let windowStart := match r.run with
            | .armed _ w => w
            | _ => none
          let f := FiringRecord.compute e.slot r e.deadline s.time
          let s := { s with queue := rest, firing := some f }
          (s.setHeld e.slot { r with run := .firing e.deadline windowStart }).carryFiring upTo
        | none => s
      else s
    | _, _ => s

/-- How a firing settles its slot: an insertion at the next deadline, or a state (R59). -/
inductive Settlement where
  | insert (deadline : TimeCount)
  | leave (run : Run)
  deriving DecidableEq, Repr

/-- A run that continues is inserted at the aligned next deadline of the firing record (R59, R76). -/
def FiringRecord.again (f : FiringRecord) : Settlement :=
  match f.nextDeadline with
  | some d => .insert d
  | none => .leave .idle

/-- The settled state by mode (R59 to R61). -/
def State.settlement (s : State) (f : FiringRecord) (r : Reservation) : Settlement :=
  match r.mode with
  | .oneShot => .leave .idle
  | .periodic _ _ => if f.final then .leave .idle else f.again
  | .gated line active period _ =>
    if f.final then .leave .idle
    else if (s.input line).processed = active then f.again
    else .leave (.paused (period.getD 0))
  | .triggered _ _ _ _ _ _ rewait =>
    if f.final then .leave (if rewait then .waiting else .idle) else f.again
  | .window _ _ _ _ _ _ =>
    .leave (match r.run with
      | .firing _ (some w) => .lapsed w
      | _ => .lapsed 0)

/-- The fourth stage of a firing: the new fire count is written, and the slot is settled by mode, as one slot operation. An
insertion keeps the slot FIRING until it completes (R59, R76). -/
def State.settle (s : State) : State :=
  match s.firing with
  | some f =>
    match s.held f.slot with
    | some r =>
      let r := { r with fireCount := f.fireCount }
      match s.settlement f r with
      | .insert deadline =>
        (s.setHeld f.slot r).insert { slot := f.slot, deadline, windowStart := none, client := .dispatch }
      | .leave run => (s.setHeld f.slot { r with run }).endFiring
    | none => s.endFiring
  | none => s

/-- SETTLING: the Dispatch Unit carries the firing in progress on, up to the stage named, or through the stages that are left
and the settling (R72 to R76, R77). The Slot Table takes no settling while an insertion is in flight (R28); then, and while
the unit is IDLE, nothing changes. -/
def execSettling (s : State) (upTo : Option FiringStage := none) : Host.Outcome State Fault Refusal :=
  s.live fun s =>
    match upTo, s.insertion with
    | some stage, _ => s.carryFiring stage
    | none, none => (s.carryFiring .action).settle
    | none, some _ => s

/-- INSERT_COMPLETION: the insertion in flight completes, and with it the slot operation that contains it (R28, R29); an edge
application that was the last of its record lets the record leave (R113). With no insertion in flight nothing changes. -/
def execInsertCompletion (s : State) (early : Nat := 0) : Host.Outcome State Fault Refusal :=
  s.live fun s =>
    match s.insertion with
    | some i =>
      match i.client with
      | .lineMonitor => (s.finishInsert i).leaveIfApplied early
      | _ => s.finishInsert i
    | none => s

end Sys2Proof.Machine
end

