-- ==== Sys2Proof/Machine/Sessions.lean ====
section
/-! DEFINITION. Sessions (section 9.2), attention settings (R134), the Port Arbiter and the engine's waits
(sections 8.2 and 8.3). -/

namespace Sys2Proof.Machine

/-- OPEN begins a session on a DETACHED port; on an OPEN port it is answered STATE with the present session number
(R138, R162). -/
def execOpenSession (s : State) : Host.Outcome State Fault Refusal :=
  s.live fun s => s.serve .openSession fun p _ s =>
    let x := s.port p
    match x.session with
    | .detached =>
      let number := x.sessionNumber + 1
      let s := s.setPort p (HostPort.drive { x with
        session := .opened, sessionNumber := number, nextSeq := 0, threshold := 1, holdoff := 0 })
      s.complete p .ok ([number, BitVec.ofNat 8 (s.quota p).quota, BitVec.ofNat 8 (s.quota p).owned]
        ++ bytesBE 8 s.time.toNat)
    | .opened => s.complete p .state [x.sessionNumber]
    | .closing => s.complete p .state [x.sessionNumber]

/-- CLOSE ends the caller's session by a teardown inside the same request (R163, R164). -/
def execCloseSession (pause : Option Nat) (s : State) : Host.Outcome State Fault Refusal :=
  s.live fun s => s.serve .closeSession fun p _ s => State.runTeardown (teardownFuel pause) (s.beginTeardown p true)

/-- SET_ATTENTION(threshold, holdoff); ATTNn is evaluated against the new settings at once (R134). -/
def execSetAttention (s : State) : Host.Outcome State Fault Refusal :=
  s.live fun s => s.serve .setAttention fun p params s =>
    match attentionOf params with
    | none => s.refuse p .badParam
    | some (threshold, holdoff) =>
      (s.setPort p (HostPort.drive { s.port p with threshold, holdoff })).complete p .ok
        (BitVec.ofNat 8 threshold :: bytesBE 2 holdoff.toNat)

/-- A port is a candidate: its request is QUEUED or its teardown is pending (R146). -/
def HostPort.candidate (p : HostPort) : Bool :=
  p.teardownPending || (match p.request with
    | .queued _ => true
    | _ => false)

/-- The first candidate from the round-robin pointer upward, wrapping from 3 to 0 (R146). -/
def State.nextCandidate (s : State) : Option PortNo :=
  [s.pointer, s.pointer + 1, s.pointer + 2, s.pointer + 3].find? fun p => (s.port p).candidate

/-- PORT_ARBITER_GRANT: while the engine is FREE the arbiter grants the first candidate (R146). A granted request becomes
EXECUTING; one whose code the part does not define is answered UNKNOWN in the grant, since no other step executes it
(R149, R151). A granted teardown stops being pending and is carried out (R164). With the engine at work, or without a
candidate, nothing changes. -/
def execPortArbiterGrant (pause : Option Nat) (s : State) : Host.Outcome State Fault Refusal :=
  s.live fun s =>
    match s.engine, s.nextCandidate with
    | .free, some p =>
      let s := { s with pointer := p + 1 }
      match (s.port p).request with
      | .queued f =>
        let s := { s.setPort p { s.port p with request := .executing f } with engine := .granted p }
        if (Req.ofCode f.code).isNone then s.refuse p .unknown else s
      | _ =>
        let s := s.setPort p { s.port p with teardownPending := false }
        State.runTeardown (teardownFuel pause) (s.beginTeardown p false)
    | _, _ => s

/-- A slot operation that the engine has offered, taken for port `p` (R5, R6). -/
def State.takeOp (p : PortNo) (op : SlotOp) : State → State :=
  match op with
  | .reserve => State.reserveOp p
  | .release n => State.releaseOp p n
  | .setShare n share => State.setShareOp p n share
  | .watch n => State.watchOp p n
  | .unwatch n => State.unwatchOp p n
  | .query n => State.queryOp p n
  | .configure n mode tag action => State.configureOp p n mode tag action
  | .arm n form => State.armOp p n form
  | .disarm n => State.disarmOp p n

/-- The slot that an offered operation names; RESERVE names none. -/
def SlotOp.slot : SlotOp → Option SlotNo
  | .reserve => none
  | .release n | .setShare n _ | .watch n | .unwatch n | .query n | .configure n _ _ _ | .arm n _ | .disarm n => some n

/-- The engine's waiting operation, taken when its wait is over; or a teardown goes on (R6, R148, R164). -/
def State.resumeEngine (pause : Option Nat) (s : State) : State :=
  match s.engine with
  | .waiting p op _ => s.offer p op.slot op (State.takeOp p op)
  | .teardown .. => State.runTeardown (teardownFuel pause) s
  | _ => s

/-- SECOND_STAGE_OPERATION: an operation that waited is taken against the settled state (R6). For the engine this is the
operation of a request, or the next operations of a teardown, after a firing or an insertion (R148); for the Line
Monitor it is the application it held (R112). While the wait lasts, and where nothing waits, nothing changes but what is
waited for. -/
def execSecondStageOperation (client : Client) (pause : Option Nat) (s : State) (early : Nat := 0) :
    Host.Outcome State Fault Refusal :=
  s.live fun s =>
    match client with
    | .engine => s.resumeEngine pause
    | .lineMonitor =>
      match s.monitor with
      | .applying _ true => s.goOn early
      | _ => s

end Sys2Proof.Machine
end

