-- ==== Sys2Proof/Machine/Links.lean ====
section
/-! DEFINITION. Link transactions of a host port, at their take points (section 9.1), and chip select. -/

namespace Sys2Proof.Machine

/-- Port `p` takes a transaction that chip select has opened: `k` gives the port after the take point. On a link that has
no transaction open before its take point nothing changes (R155, R156). -/
def State.takeTransaction (p : PortNo) (k : HostPort → HostPort) (s : State) : State :=
  match (s.port p).link with
  | .selected .opened => s.setPort p (k (s.port p))
  | _ => s

/-- The port answers with these reply bytes, fixed at the take point (R156). -/
def HostPort.answer (reply : List Byte) (p : HostPort) : HostPort := { p with link := .selected (.replying reply) }

/-- The link status that answers a complete frame (R142). -/
def HostPort.submitStatus (p : HostPort) : LinkStatus :=
  if p.session = .closing ∨ p.teardownPending then .closing
  else match p.request with
    | .idle => .accepted
    | .queued _ => .busy
    | .executing _ => .busy
    | .done _ => .unfetched

/-- The port takes a complete request frame (R142, R158). -/
def HostPort.submit (f : Frame) (p : HostPort) : HostPort :=
  let q := p.answer [p.submitStatus.code]
  if p.submitStatus = .accepted then { q with request := .queued f } else q

/-- SUBMIT: at the last byte of a frame the port takes it into its holding or refuses it. Bytes that stop short of a frame
leave the transaction short of its take point, where it has no effect (R142, R157, R158). -/
def execSubmit (p : PortNo) (bytes : List Byte) (s : State) : Host.Outcome State Fault Refusal :=
  s.live fun s => s.takeTransaction p fun x =>
    match Frame.ofBytes bytes with
    | some f => x.submit f
    | none => x.answer []

/-- FETCH: at the selector byte the port answers with the held response, NOT_READY or NONE (R143). -/
def execFetch (p : PortNo) (s : State) : Host.Outcome State Fault Refusal :=
  s.live fun s => s.takeTransaction p fun x =>
    match x.request with
    | .done r => { x with link := .selected (.fetching (LinkStatus.done.code :: r.bytes)) }
    | .queued _ => x.answer [LinkStatus.notReady.code]
    | .executing _ => x.answer [LinkStatus.notReady.code]
    | .idle => x.answer [LinkStatus.nothing.code]

/-- FETCH_END: the whole of a DONE response has been clocked out, the held response becomes absent and the request state
IDLE (R143, R157). On a link without such a FETCH nothing changes. -/
def execFetchEnd (p : PortNo) (s : State) : Host.Outcome State Fault Refusal :=
  s.live fun s =>
    match (s.port p).link with
    | .selected (.fetching reply) => s.setPort p { (s.port p).answer reply with request := .idle }
    | _ => s

/-- The reply of PEEK(offset) (R131). -/
def HostPort.peekReply (offset : Byte) (p : HostPort) : List Byte :=
  match p.notices[offset.toNat]? with
  | some e => LinkStatus.done.code :: e.bytes
  | none => LinkStatus.empty.code :: emptyNoticeBytes

/-- PEEK: at the offset byte the port copies one notice into the reply, or answers EMPTY (R131). -/
def execPeek (p : PortNo) (offset : Byte) (s : State) : Host.Outcome State Fault Refusal :=
  s.live fun s => s.takeTransaction p fun x => x.answer (x.peekReply offset)

/-- The notices that an ACK of `seq` leaves: those newer than the notice that it names; `none` is STALE (R132). -/
def afterAck (seq : Half) (notices : List Stored) : Option (List Stored) :=
  match notices.findIdx? fun e => e.seq == seq with
  | some i => some (notices.drop (i + 1))
  | none => none

/-- The seq that an ACK carries in its two bytes, the high byte first (R170). -/
def ackSeq (seq : Byte × Byte) : Half := BitVec.ofNat 16 (fieldBE [seq.1, seq.2] 0 2)

/-- ACK: at the second seq byte the port removes the named notice and every older one, or answers STALE (R132, R135). -/
def execAck (p : PortNo) (seq : Byte × Byte) (s : State) : Host.Outcome State Fault Refusal :=
  s.live fun s => s.takeTransaction p fun x =>
    match afterAck (ackSeq seq) x.notices with
    | some notices => (HostPort.drive { x with notices, holdoffCounter := 0 }).answer [LinkStatus.done.code]
    | none => x.answer [LinkStatus.stale.code]

/-- TIME: at the selector byte the port latches the time count, the SLEWING flag and the divisor, and answers from the
latch (R100). -/
def execTime (p : PortNo) (s : State) : Host.Outcome State Fault Refusal :=
  s.live fun s =>
    let latch : Snapshot := { time := s.time, slewing := s.slew.isSome, divisor := s.divisor }
    s.takeTransaction p fun x => { x.answer (LinkStatus.done.code :: latch.bytes) with snapshot := latch }

/-- The PORTSTAT record of port `p` (R159, R174). -/
def State.portstat (s : State) (p : PortNo) : List Byte :=
  let x := s.port p
  [x.session.code, x.sessionNumber, x.request.code,
    flagByte [x.teardownPending, x.overflow, s.authority == some p], BitVec.ofNat 8 x.notices.length,
    BitVec.ofNat 8 (s.quota p).quota, BitVec.ofNat 8 (s.quota p).owned]

/-- PORTSTAT: at the selector byte the port copies its status record into the reply (R159). -/
def execPortstat (p : PortNo) (s : State) : Host.Outcome State Fault Refusal :=
  s.live fun s => s.takeTransaction p fun x => x.answer (LinkStatus.done.code :: s.portstat p)

/-- DO_NOTHING_TRANSACTION: a selector that names no link transaction opens one that does nothing and returns zeros
(R155, R170). A selector that names a transaction is not this command, and nothing changes. -/
def execDoNothingTransaction (p : PortNo) (selector : Byte) (s : State) : Host.Outcome State Fault Refusal :=
  s.live fun s =>
    if isSelector selector then s
    else s.takeTransaction p fun x => x.answer []

/-- CHIP_SELECT_ASSERTION: taken while the link is IDLE it opens a transaction. A link that is INERT, or whose chip select
is asserted already, opens nothing (R155). -/
def execChipSelectAssertion (p : PortNo) (s : State) : Host.Outcome State Fault Refusal :=
  let x := s.port p
  .next <| s.setPort p { x with
    chipSelect := true, link := if x.link = .idle ∧ !x.chipSelect ∧ !s.rstn then .selected .opened else x.link }

/-- The link after chip select is negated: the transaction in progress ends; an INERT link stays so (R155, R157). -/
def Link.negated : Link → Link
  | .inert => .inert
  | .idle => .idle
  | .selected _ => .idle

/-- CHIP_SELECT_NEGATION: the transaction in progress ends, keeping what its take point did; a FETCH ended before the last
byte of its response leaves the response held (R155, R157). -/
def execChipSelectNegation (p : PortNo) (s : State) : Host.Outcome State Fault Refusal :=
  let x := s.port p
  .next <| s.setPort p { x with chipSelect := false, link := x.link.negated }

end Sys2Proof.Machine
end

