-- ==== Sys2Proof/Machine/Resets.lean ====
section
/-! DEFINITION. Port reset (section 9.4) and device reset (section 9.5). -/

namespace Sys2Proof.Machine

/-- What an assertion of PRSTn does to a port's request state and teardown pending (R147, R166). -/
def HostPort.portReset (p : HostPort) : HostPort :=
  match p.request with
  | .executing _ => { p with resetMark := true }
  | _ =>
    match p.session with
    | .opened => { p with request := .idle, teardownPending := true }
    | .detached => { p with request := .idle }
    | .closing => p

/-- PRSTN_ASSERT: the port's link becomes INERT, and its request state and teardown pending change as R147 gives (R166).
PRSTn is ignored while RSTn is asserted (R168), and a PRSTn that is asserted already has had its effect. -/
def execPrstnAssert (p : PortNo) (s : State) : Host.Outcome State Fault Refusal :=
  let x := s.port p
  .next <|
    if s.rstn then s.setPort p { x with prstn := true }
    else if x.prstn then s
    else s.setPort p { x.portReset with prstn := true, link := .inert }

/-- PRSTN_RELEASE: the link becomes IDLE, and no other state changes (R167). While RSTn is asserted the link stays INERT
(R168). -/
def execPrstnRelease (p : PortNo) (s : State) : Host.Outcome State Fault Refusal :=
  let x := s.port p
  .next <|
    if s.rstn then s.setPort p { x with prstn := false }
    else if x.prstn then s.setPort p { x with prstn := false, link := .idle }
    else s

/-- The link phase of device reset: INERT while RSTn or PRSTn is asserted (R168, R169). -/
def resetLink (rstn prstn : Bool) : Link := if rstn || prstn then .inert else .idle

/-- Every block at its reset values (R168). The pins stay as the board drives them: chip select, PRSTn and the
synchronizers' stages, which keep sampling (R122). -/
def State.deviceReset (s : State) (rstn : Bool) (straps : BitVec 2) (quota : PortNo → Nat) : State :=
  { State.reset with
    pending := s.pending, rstn, straps,
    quotas := Vector.ofFn fun p => { quota := quota p, owned := 0 },
    inputs := Vector.ofFn fun l => InputLine.reset (s.input l).stage1 (s.input l).stage2,
    ports := Vector.ofFn fun p => { HostPort.reset with
      prstn := (s.port p).prstn, chipSelect := (s.port p).chipSelect, link := resetLink rstn (s.port p).prstn } }

/-- RSTN_ASSERT: every block abandons its work and is reset; links are INERT, every ATTNn is negated, and every output line
is LOW (R168). The quotas are set at the release, from the straps (R7), and stand until then. -/
def execRstnAssert (s : State) : Host.Outcome State Fault Refusal :=
  .next <| if s.rstn then s else s.deviceReset true s.straps fun p => (s.quota p).quota

/-- RSTN_RELEASE: every block holds its reset values, and the straps give the quotas (R7, R168, R169). An RSTn that is not
asserted cannot be released, and nothing changes. -/
def execRstnRelease (straps : BitVec 2) (s : State) : Host.Outcome State Fault Refusal :=
  .next <| if s.rstn then s.deviceReset false straps (strapQuota straps) else s

end Sys2Proof.Machine
end

