-- ==== Sys2Proof/Machine/Dispatch.lean ====
section
/-! DEFINITION. The effect of a command on everything but the queue of pending commands: one arm for each row of
spec/opcode_table.json, in the table's order, each one call of the row's meaning. -/

namespace Sys2Proof.Machine

def exec (i : Instr) (s : State) : Host.Outcome State Fault Refusal :=
  match i with
  | .openSession => Sys2Proof.Machine.execOpenSession s
  | .closeSession pause => Sys2Proof.Machine.execCloseSession pause s
  | .reserve => Sys2Proof.Machine.execReserve s
  | .release => Sys2Proof.Machine.execRelease s
  | .setShare => Sys2Proof.Machine.execSetShare s
  | .watch => Sys2Proof.Machine.execWatch s
  | .unwatch => Sys2Proof.Machine.execUnwatch s
  | .query => Sys2Proof.Machine.execQuery s
  | .giveQuota => Sys2Proof.Machine.execGiveQuota s
  | .configure => Sys2Proof.Machine.execConfigure s
  | .arm => Sys2Proof.Machine.execArm s
  | .disarm => Sys2Proof.Machine.execDisarm s
  | .takeAuthority => Sys2Proof.Machine.execTakeAuthority s
  | .yieldAuthority => Sys2Proof.Machine.execYieldAuthority s
  | .stepTime => Sys2Proof.Machine.execStepTime s
  | .slew => Sys2Proof.Machine.execSlew s
  | .cancelSlew => Sys2Proof.Machine.execCancelSlew s
  | .setDivisor => Sys2Proof.Machine.execSetDivisor s
  | .claimOutput => Sys2Proof.Machine.execClaimOutput s
  | .driveOutput => Sys2Proof.Machine.execDriveOutput s
  | .releaseOutput => Sys2Proof.Machine.execReleaseOutput s
  | .setAttention => Sys2Proof.Machine.execSetAttention s
  | .submit port bytes => Sys2Proof.Machine.execSubmit port bytes s
  | .fetch port => Sys2Proof.Machine.execFetch port s
  | .fetchEnd port => Sys2Proof.Machine.execFetchEnd port s
  | .peek port offset => Sys2Proof.Machine.execPeek port offset s
  | .ack port seq => Sys2Proof.Machine.execAck port seq s
  | .time port => Sys2Proof.Machine.execTime port s
  | .portstat port => Sys2Proof.Machine.execPortstat port s
  | .doNothingTransaction port selector => Sys2Proof.Machine.execDoNothingTransaction port selector s
  | .chipSelectNegation port => Sys2Proof.Machine.execChipSelectNegation port s
  | .prstnAssert port => Sys2Proof.Machine.execPrstnAssert port s
  | .prstnRelease port => Sys2Proof.Machine.execPrstnRelease port s
  | .rstnAssert => Sys2Proof.Machine.execRstnAssert s
  | .rstnRelease straps => Sys2Proof.Machine.execRstnRelease straps s
  | .tickEvent pins early doneFirst => Sys2Proof.Machine.execTickEvent pins early doneFirst s
  | .slewEnd pins early doneFirst => Sys2Proof.Machine.execSlewEnd pins early doneFirst s
  | .holdoffExpired port => Sys2Proof.Machine.execHoldoffExpired port s
  | .edgeRecognized line => Sys2Proof.Machine.execEdgeRecognized line s
  | .recordTake early => Sys2Proof.Machine.execRecordTake s early
  | .edgeApplication early => Sys2Proof.Machine.execEdgeApplication s early
  | .portArbiterGrant pause => Sys2Proof.Machine.execPortArbiterGrant pause s
  | .secondStageOperation client pause early => Sys2Proof.Machine.execSecondStageOperation client pause s early
  | .takeHead upTo => Sys2Proof.Machine.execTakeHead s upTo
  | .settling upTo => Sys2Proof.Machine.execSettling s upTo
  | .insertCompletion early => Sys2Proof.Machine.execInsertCompletion s early
  | .chipSelectAssertion port => Sys2Proof.Machine.execChipSelectAssertion port s
  | .refclkRisingEdge pins tickLater => Sys2Proof.Machine.execRefclkRisingEdge pins s tickLater

end Sys2Proof.Machine
end

