-- ==== Sys2Proof/Safety.lean ====
section
/-! DEFINITION. What a safe run keeps: the laws the spec states over the whole part, in the terms the statements of
Certificates/Slice0/Obligations.lean use. Each law is a property of one state; where it needs more than the rule it
cites to be kept by every step, the further parts say how the engine or an insertion stands to it. -/

namespace Sys2Proof.Machine

/-- ATTNn of every port follows its terms (R137). -/
def State.AttentionLaw (s : State) : Prop := ∀ p, (s.port p).attn = (s.port p).attention

/-- A port's notice queue: at most 32 notices, at most one of them OVERFLOW, and that one the newest; the seqs rise by
one up to next seq; outside OPEN the list is empty, and with an empty list the holdoff counter is 0 (R130, R135, R139). -/
def HostPort.NoticeLaw (p : HostPort) : Prop :=
  p.notices.length ≤ 32 ∧
  (p.overflow = false → p.notices.length ≤ 31) ∧
  (∀ i : Fin p.notices.length, p.notices[i].isOverflow = true → i.val + 1 = p.notices.length) ∧
  (∀ i : Fin p.notices.length, p.notices[i].seq = p.nextSeq - BitVec.ofNat 16 (p.notices.length - i.val)) ∧
  (p.session ≠ .opened → p.notices = []) ∧
  (p.notices = [] → p.holdoffCounter = 0)

/-- The port whose teardown the engine carries out is CLOSING (R164). -/
def State.ClosingLaw (s : State) : Prop :=
  match s.engine with
  | .teardown p _ _ _ _ => (s.port p).session = .closing
  | _ => True

/-- Every port's notice queue keeps its law (R130). -/
def State.NoticeLaw (s : State) : Prop := (∀ p, (s.port p).NoticeLaw) ∧ s.ClosingLaw

/-- The entries of the Deadline Queue are in nondecreasing order of deadline (R25). -/
def State.SortedLaw (s : State) : Prop := (s.queue.map fun e => e.deadline.toNat).Pairwise (· ≤ ·)

/-- The deadline of slot `n` when it is ARMED. -/
def State.armedAt (s : State) (n : SlotNo) : Option TimeCount :=
  match s.held n with
  | some r => r.run.armedDeadline
  | none => none

/-- A slot is an entry of the Deadline Queue exactly when it is ARMED, at its own deadline, and once (R24, R26); a slot is
FIRING exactly when the firing record names it (R66); an insertion in flight is for a reserved slot that is not ARMED, and
is the settling's exactly when that slot is FIRING (R29). -/
def State.TimerLaw (s : State) : Prop :=
  (∀ n, s.isFiring n = true ↔ s.firing.map (·.slot) = some n) ∧
  (∀ e ∈ s.queue, s.armedAt e.slot = some e.deadline) ∧
  (∀ n, s.armedAt n ≠ none → ∃ e ∈ s.queue, e.slot = n) ∧
  (s.queue.map (·.slot)).Nodup ∧
  (∀ i ∈ s.insertion, (s.held i.slot).isSome = true ∧ s.armedAt i.slot = none ∧
    (i.client = .dispatch ↔ s.isFiring i.slot = true))

/-- The number of slots that a port owns. -/
def State.ownedCount (s : State) (p : PortNo) : Nat := (allSlots.filter fun n => s.owns p n).length

/-- The number of FREE slots. -/
def State.freeCount (s : State) : Nat := (allSlots.filter fun n => (s.held n).isNone).length

/-- The quotas sum to 64; a port's owned is the number of its slots and is at most its quota; and the number of FREE slots is the
sum of quota minus owned over the ports (R7, R8). -/
def State.QuotaLaw (s : State) : Prop :=
  (s.quota 0).quota + (s.quota 1).quota + (s.quota 2).quota + (s.quota 3).quota = 64 ∧
  (∀ p, (s.quota p).owned ≤ (s.quota p).quota ∧ (s.quota p).owned = s.ownedCount p) ∧
  s.freeCount = (allPorts.map fun p => (s.quota p).quota - (s.quota p).owned).sum

/-- The watcher set of a slot never holds its owner, and is empty when its share is PRIVATE (R22). A WATCH that waits is for
another port's OPEN slot (R17). -/
def State.WatcherLaw (s : State) : Prop :=
  (∀ n, ∀ r ∈ s.held n, r.watchers[r.owner] = false ∧ (r.share = .priv → r.watchers = noWatchers)) ∧
  (match s.engine with
    | .waiting p (.watch n) _ => ∃ r ∈ s.held n, r.owner ≠ p ∧ r.share = .opn
    | _ => True)

/-- Every output action names a line claimed by its slot's owner, and a FREE line stands at its idle level (R116, R121). -/
def State.OutputLaw (s : State) : Prop :=
  (∀ n, ∀ r ∈ s.held n, ∀ a ∈ r.action, (s.output a.line).claim = some r.owner) ∧
  (∀ l, (s.output l).claim = none → (s.output l).level = (s.output l).idleLevel)

/-- A binding list holds at most eight slots, each once, and exactly those whose mode is a line mode on its line
(R39, R115, R121). -/
def State.BindingLaw (s : State) : Prop :=
  ∀ l, (s.input l).bindings.length ≤ 8 ∧ (s.input l).bindings.Nodup ∧
    ∀ n, n ∈ (s.input l).bindings ↔ ∃ r ∈ s.held n, r.mode.line = some l

/-- The slot's mode is WINDOW. -/
def Mode.isWindow : Mode → Bool
  | .window .. => true
  | _ => false

/-- A report set with a member (R38). -/
def ReportSet.nonempty (r : ReportSet) : Bool := r.short || r.long || r.ends

/-- A period, where present, is 1 or more, and a repeat limit goes with a present period (R38). -/
def periodInRange (period : Option Word) (repeatLimit : Half) : Bool :=
  match period with
  | none => repeatLimit == 0
  | some p => p != 0

/-- The mode parameters lie in their ranges (R38). -/
def Mode.inRange : Mode → Bool
  | .oneShot => true
  | .periodic period _ => period != 0
  | .gated _ _ period repeatLimit => periodInRange period repeatLimit
  | .triggered _ _ _ period repeatLimit _ _ => periodInRange period repeatLimit
  | .window _ _ _ limit report _ => limit != 0 && report.nonempty

/-- The state of a slot suits its mode: PAUSED is GATED's, WAITING is TRIGGERED's and WINDOW's, LAPSED is WINDOW's, and a window
start goes with WINDOW (R2). -/
def Run.suits (m : Mode) : Run → Bool
  | .idle => true
  | .armed _ start => start.isSome == m.isWindow
  | .paused _ => m.isGated
  | .waiting => match m with
    | .triggered .. => true
    | .window .. => true
    | _ => false
  | .lapsed _ => m.isWindow
  | .firing _ start => start.isSome == m.isWindow

/-- The fire count is below a repeat limit that is not 0 (R70). -/
def Reservation.belowLimit (r : Reservation) : Prop := r.mode.repeatLimit ≠ 0 → r.fireCount.toNat < r.mode.repeatLimit

/-- A reserved slot: its mode is in range, its state suits its mode, and while its run is on, its fire count is below its repeat
limit (R2, R38, R70). -/
def Reservation.Law (r : Reservation) : Prop :=
  r.mode.inRange = true ∧ r.run.suits r.mode = true ∧
  match r.run with
  | .armed .. => r.belowLimit
  | .paused _ => r.belowLimit
  | .firing .. => r.belowLimit
  | _ => True

/-- Every reserved slot keeps `Reservation.Law` (R2, R38, R70). The firing record names a FIRING slot, and its final value is the
one that R58 gives for its fire count; an insertion in flight suits its slot; a CONFIGURE that waits is in range. -/
def State.RunLaw (s : State) : Prop :=
  (∀ n, ∀ r ∈ s.held n, r.Law) ∧
  (∀ f ∈ s.firing, ∃ r ∈ s.held f.slot, r.run.isFiring = true ∧ f.final = r.mode.isFinal f.fireCount.toNat) ∧
  (∀ i ∈ s.insertion, ∃ r ∈ s.held i.slot, i.windowStart.isSome = r.mode.isWindow ∧ r.belowLimit ∧
    (i.client ≠ .dispatch → r.run.isFiring = false)) ∧
  (match s.engine with
    | .waiting _ (.configure _ mode _ _) _ => mode.inRange = true
    | _ => True)

/-- The divider count is below the divisor, and the divisors lie in 1 to 4096; a tick that is due is that of the edge that
ends the division (R85, R87). -/
def State.DividerLaw (s : State) : Prop :=
  1 ≤ s.divisor ∧ s.divisor ≤ 4096 ∧ s.divider < s.divisor ∧ (∀ d ∈ s.pendingDivisor, 1 ≤ d ∧ d ≤ 4096) ∧
    (s.tickDue = true → s.divider + 1 = s.divisor)

/-- What the arithmetic of a slew keeps (R95, R96): `k` corrections have been made, the accumulator is below the span, and the
absolute value of the remaining amount never exceeds the remaining ticks. -/
def Slew.Law (r : Slew) : Prop :=
  r.amount ≠ 0 ∧ r.amount.natAbs ≤ r.span ∧ 1 ≤ r.ticksRemaining ∧ r.ticksRemaining ≤ r.span ∧ r.accumulator < r.span ∧
  r.remaining.natAbs ≤ r.amount.natAbs ∧ r.remaining.natAbs ≤ r.ticksRemaining ∧ 0 ≤ r.remaining * r.amount ∧
  (r.amount.natAbs - r.remaining.natAbs) * r.span + r.accumulator = (r.span - r.ticksRemaining) * r.amount.natAbs

/-- A slew that is applying keeps its law (R96). -/
def State.SlewLaw (s : State) : Prop := ∀ r ∈ s.slew, r.Law

/-- The level that the last record of line `l` in the FIFO brings it to, or its processed level without one. -/
def State.lastLevel (s : State) (l : LineNo) : Level :=
  match (s.fifo.filter fun r => r.line == l).getLast? with
  | some r => r.direction.level
  | none => (s.input l).processed

/-- The FIFO holds at most 16 records (R106); a line that is not owed a level stands, after the records in the FIFO, at its
synchronized level, and so with no record its processed level equals it (R114); and the line of the record in hand
has that record's level processed (R111). -/
def State.EdgeLaw (s : State) : Prop :=
  s.fifo.length ≤ 16 ∧ (s.rstn = true → s.fifo = []) ∧
  (∀ l, (s.input l).owed = false → s.lastLevel l = (s.input l).synchronized) ∧
  (s.monitor = .ready ∨ ∃ rec ∈ s.fifo.head?, (s.input rec.line).processed = rec.direction.level)

/-- A DETACHED port owns no slot, watches none, claims no output line and holds no time authority (R160). A request that waits
is an OPEN port's, and a port in teardown is CLOSING (R152, R164). -/
def State.DetachedLaw (s : State) : Prop :=
  (∀ p, (s.port p).session = .detached →
    (∀ n, s.owns p n = false ∧ s.watches p n = false) ∧ (∀ l, (s.output l).claim ≠ some p) ∧ s.authority ≠ some p) ∧
  (match s.engine with
    | .waiting p _ _ => (s.port p).session = .opened
    | .teardown p _ _ _ _ => (s.port p).session = .closing
    | _ => True)

/-- The request state is EXECUTING. -/
def RequestState.isExecuting : RequestState → Bool
  | .executing _ => true
  | _ => false

/-- The request state is DONE. -/
def RequestState.isDone : RequestState → Bool
  | .done _ => true
  | _ => false

/-- The port whose REQUEST the engine has in hand (R145). -/
def Engine.requestPort : Engine → Option PortNo
  | .granted p => some p
  | .inserting p => some p
  | .waiting p _ _ => some p
  | .teardown p true _ _ _ => some p
  | .teardown _ false _ _ _ => none
  | .free => none

/-- A port whose teardown is pending is OPEN with request state IDLE, the reset mark stands only over an EXECUTING request
(R147), and a FETCH that has been answered DONE is of a response still held (R157). -/
def HostPort.RequestLaw (p : HostPort) : Prop :=
  (p.teardownPending = true → p.session = .opened ∧ p.request = .idle) ∧
  (p.resetMark = true → p.request.isExecuting = true) ∧
  (∀ reply, p.link = .selected (.fetching reply) → p.request.isDone = true)

/-- A port's request is EXECUTING exactly when the engine has it in hand, an ARM's insertion is in flight exactly when the
engine is inserting for that port (R141, R145, R148), and each port keeps `HostPort.RequestLaw`. -/
def State.EngineLaw (s : State) : Prop :=
  (∀ p, (s.port p).request.isExecuting = true ↔ s.engine.requestPort = some p) ∧
  (∀ p, s.engine = .inserting p ↔ ∃ i ∈ s.insertion, ∃ results, i.client = .engine p results) ∧
  (∀ p, (s.port p).RequestLaw)

/-- A link is INERT exactly while PRSTn or RSTn is asserted (R155, R169). -/
def State.LinkLaw (s : State) : Prop :=
  ∀ p, (s.port p).link = .inert ↔ (s.rstn = true ∨ (s.port p).prstn = true)

end Sys2Proof.Machine
end

