-- ==== Sys2Proof/WellFormed.lean ====
section
/-! DEFINITION. Which commands are well formed: operands that name something the spec gives the step.
`Machine.exec` is total; an ill-formed command has the effect its meaning gives it, which is none beyond
what the docstring of the meaning says. -/

namespace Sys2Proof

/-- The bytes after the SUBMIT selector hold a complete frame and no more: a code, a length byte and as
many parameter bytes as the length byte gives (R158). -/
def completeFrame : List Byte → Bool
  | _ :: length :: params => params.length == length.toNat
  | _ => false

/-- A command whose operands are those of a step of the table. -/
def Instr.wellFormed : Instr → Bool
  | .submit _ bytes => completeFrame bytes
  | .doNothingTransaction _ selector => !linkSelectors.contains selector
  | .tickEvent _ early _ => decide (early ≤ 8)
  | .slewEnd _ early _ => decide (early ≤ 8)
  | .closeSession pause => (pause.getD 0).ble Config.teardownOps
  | .portArbiterGrant pause => (pause.getD 0).ble Config.teardownOps
  | .secondStageOperation .engine pause early => (pause.getD 0).ble Config.teardownOps && early == 0
  | .secondStageOperation .lineMonitor pause early => pause.isNone && decide (early ≤ 8)
  | .recordTake early => decide (early ≤ 8)
  | .edgeApplication early => decide (early ≤ 8)
  | .insertCompletion early => decide (early ≤ 8)
  | .openSession | .reserve | .release | .setShare | .watch | .unwatch | .query | .giveQuota
  | .configure | .arm | .disarm | .takeAuthority | .yieldAuthority | .stepTime | .slew | .cancelSlew
  | .setDivisor | .claimOutput | .driveOutput | .releaseOutput | .setAttention
  | .fetch _ | .fetchEnd _ | .peek _ _ | .ack _ _ | .time _ | .portstat _ | .chipSelectNegation _
  | .prstnAssert _ | .prstnRelease _ | .rstnAssert | .rstnRelease _ | .holdoffExpired _
  | .edgeRecognized _ | .takeHead _ | .settling _ | .chipSelectAssertion _ | .refclkRisingEdge _ _ => true

end Sys2Proof
end

