-- ==== Sys2Proof/Certificates/Slice0/Obligations.lean ====
section
/-! DEFINITION. The statements about the model, each a `def Obligations.<Name> : Prop`, with the words they share in
`Sys2Proof.Claims`. A statement that gives a command's next state gives all of it, so what it does not name is unchanged. -/

namespace Sys2Proof.Claims

open Sys2Proof.Machine

/-! ## Words for requests -/

/-- The row of a request; a CLOSE runs its teardown on without a pause. -/
def row : Req → Instr
  | .openSession => .openSession
  | .closeSession => .closeSession none
  | .reserve => .reserve
  | .release => .release
  | .setShare => .setShare
  | .watch => .watch
  | .unwatch => .unwatch
  | .query => .query
  | .giveQuota => .giveQuota
  | .configure => .configure
  | .arm => .arm
  | .disarm => .disarm
  | .takeAuthority => .takeAuthority
  | .yieldAuthority => .yieldAuthority
  | .stepTime => .stepTime
  | .slew => .slew
  | .cancelSlew => .cancelSlew
  | .setDivisor => .setDivisor
  | .claimOutput => .claimOutput
  | .driveOutput => .driveOutput
  | .releaseOutput => .releaseOutput
  | .setAttention => .setAttention

/-- The engine has in hand, its checks still to be made, the request `c` of port `p` with these parameter bytes; the frame has
its code's length, and the port is OPEN unless the request is OPEN (R146, R149 steps 1 and 2). -/
structure Granted (s : State) (p : PortNo) (c : Req) (params : List Byte) : Prop where
  live : s.rstn = false
  engine : s.engine = .granted p
  request : (s.port p).request = .executing { code := c.code, params }
  length : params.length = c.length
  session : c ≠ .openSession → (s.port p).session = .opened

/-- `s` after the request of port `p` completes (R144, R147): the response is held in DONE and the engine is FREE; with the reset
mark set there is no response, and a teardown becomes pending if the port is OPEN. -/
def answered (s : State) (p : PortNo) (code : Byte) (status : Status) (results : List Byte) : State :=
  { s with
    engine := .free
    ports := s.ports.set p
      (if (s.port p).resetMark then
        { s.port p with
          request := .idle, resetMark := false,
          teardownPending := (s.port p).teardownPending || (s.port p).session == .opened }
      else { s.port p with request := .done { code, status, results } }) }

/-- `answered` for a defined request. -/
def completed (s : State) (p : PortNo) (c : Req) (status : Status) (results : List Byte) : State :=
  answered s p c.code status results

/-- A copy of a notice arrives at each port that `sentTo` names, and nothing else changes. -/
def copies (s : State) (sentTo : PortNo → Bool) (notice : PortNo → Notice) : State :=
  { s with ports := Vector.ofFn fun q => if sentTo q then (s.port q).arrive s.time (notice q) else s.port q }

/-- A notice about slot `n`, holding `r`, with only the fields that every such notice has (R14, R16). -/
def plainNotice (s : State) (kind : NoticeKind) (n : SlotNo) (r : Reservation) (eventTime : TimeCount) : Notice :=
  { kind, slot := some n, generation := some (s.slot n).generation, tag := some r.tag, eventTime, ref := none,
    value := none, count := none, missed := none, late := false, final := false, watched := false, big := false }

/-! ## Words for slots -/

/-- The requests that name a slot (R9, R40, R42, R47). -/
def slotRequests : List Req := [.release, .setShare, .watch, .unwatch, .query, .configure, .arm, .disarm]

/-- The slot operation that a request on slot `n` offers; `none` when a parameter is out of range (R149 step 3). -/
def offered (c : Req) (params : List Byte) (n : SlotNo) : Option SlotOp :=
  match c with
  | .release => some (.release n)
  | .setShare => (Share.ofCode (byteAt params 1)).map fun share => .setShare n share
  | .watch => some (.watch n)
  | .unwatch => some (.unwatch n)
  | .query => some (.query n)
  | .configure => (configureOf params).map fun (mode, tag, action) => .configure n mode tag action
  | .arm => (armFormOf params).map fun form => .arm n form
  | .disarm => some (.disarm n)
  | _ => none

/-- The refusal that a caller without the right to the slot is answered with (R9 step 3). -/
def noRight (c : Req) (p : PortNo) (r : Reservation) : Option Status :=
  match c with
  | .watch => if r.owner = p then some .badParam else if r.share = .priv then some .priv else none
  | .unwatch => if r.watchers[p] = true then none else some .state
  | .query => if r.owner = p ∨ r.share = .opn then none else some .notOwner
  | _ => if r.owner = p then none else some .notOwner

/-- The slot operation of a request on slot `n` is taken at once: the slot holds `r`, it is not FIRING, and no insertion is in
flight (R6, R28). -/
structure Ready (s : State) (n : SlotNo) (r : Reservation) : Prop where
  held : s.held n = some r
  settled : r.run.isFiring = false
  quiet : s.insertion = none

/-- Slot `n` is an entry of the Deadline Queue only when it is ARMED (R26). -/
def entryOnlyArmed (s : State) (n : SlotNo) (r : Reservation) : Prop :=
  r.run.armedDeadline = none → ∀ e ∈ s.queue, e.slot ≠ n

/-- Slot `n` leaves the binding list of this line, and a record of that line in hand passes it over (R39, R111). -/
def leavesList (s : State) (n : SlotNo) (line : Option LineNo) : State :=
  { s with
    inputs := Vector.ofFn fun l =>
      if line = some l then { s.input l with bindings := (s.input l).bindings.filter fun m => m ≠ n } else s.input l
    monitor :=
      if line.isSome ∧ (s.fifo.head?.map fun rec => rec.line) = line then
        match s.monitor with
        | .ready => .ready
        | .applying rest held => .applying (rest.filter fun m => m ≠ n) held
        | .holding rest => .holding (rest.filter fun m => m ≠ n)
      else s.monitor }

/-- Slot `n` joins the binding list of this line at its end (R39). -/
def joinsList (s : State) (n : SlotNo) (line : Option LineNo) : State :=
  { s with
    inputs := Vector.ofFn fun l =>
      if line = some l then { s.input l with bindings := (s.input l).bindings ++ [n] } else s.input l }

/-- The slot's entry leaves the Deadline Queue (R31). -/
def dequeued (s : State) (n : SlotNo) : State := { s with queue := s.queue.filter fun e => e.slot ≠ n }

/-- INSERT is taken for a slot that holds `r` (R29): a walk that passes no entry completes at once, with the new entry at the head,
the slot ARMED and `done` following; any other is in flight. -/
def entered (s : State) (i : Insertion) (r : Reservation) (done : State → State) : State :=
  if ∀ e ∈ s.queue.head?, i.deadline.toNat < e.deadline.toNat then
    done (State.setHeld { s with queue := { slot := i.slot, deadline := i.deadline } :: s.queue } i.slot
      { r with run := .armed i.deadline i.windowStart })
  else { s with insertion := some i }

/-! ## Words for encodings -/

/-- The two bytes of CONFIGURE that give an output action (R171). -/
def actionBytes : Option OutputAction → List Byte
  | none => [0, 0]
  | some a => [BitVec.ofNat 8 a.line.val, a.action.code]

/-- The parameter bytes of a CONFIGURE of slot number `v` (R171). -/
def configureBytes (v : Byte) (mode : Mode) (tag : Word) (action : Option OutputAction) : List Byte :=
  v :: mode.block ++ bytesBE 4 tag.toNat ++ actionBytes action

/-- The form, past policy, time and duration of an ARM (R171). -/
def armBytes : ArmForm → List Byte
  | .absolute time refuse => [1, yesNo refuse] ++ bytesBE 8 time.toNat ++ bytesBE 4 0
  | .relative time refuse => [2, yesNo refuse] ++ bytesBE 8 time.toNat ++ bytesBE 4 0
  | .duration ticks => [3, 0] ++ bytesBE 8 0 ++ bytesBE 4 ticks.toNat
  | .none => [4, 0] ++ bytesBE 8 0 ++ bytesBE 4 0

/-- A duration is 1 or more (R45). -/
def armInRange : ArmForm → Bool
  | .duration ticks => ticks != 0
  | _ => true

/-- Slot `n`, which holds `r`, after its release (R11, R13): out of the queue and the binding list, FREE with its generation, its
owner's owned one lower, and RELEASED at each watcher. -/
def freed (s : State) (n : SlotNo) (r : Reservation) : State :=
  copies
    { leavesList (dequeued s n) n r.mode.line with
      slots := s.slots.set n { generation := (s.slot n).generation, held := none }
      quotas := s.quotas.set r.owner { s.quota r.owner with owned := (s.quota r.owner).owned - 1 } }
    (fun q => r.watchers[q]) fun _ => { plainNotice s .released n r s.time with watched := true }

/-! ## Words for edges -/

/-- What the recognition of line `l`'s edge leaves (R104, R105, R107): with no binding and no record of the line it is not queued;
else it enters the FIFO as a record of kind EDGE, or at a full FIFO it is dropped and counted, and the line becomes owed. -/
def recognized (s : State) (l : LineNo) : State :=
  let i := s.input l
  if i.bindings = [] ∧ ∀ rec ∈ s.fifo, rec.line ≠ l then
    s.setInput l { i with synchronized := i.stage2, processed := i.stage2, lost := 0, owed := false }
  else if s.fifo.length < 16 then
    { s.setInput l { i with synchronized := i.stage2, owed := false } with
      fifo := s.fifo ++
        [{ line := l, direction := if i.stage2 = .high then .rise else .fall, timestamp := s.time, kind := .edge }] }
  else
    s.setInput l { i with synchronized := i.stage2, lost := BitVec.ofNat 8 (min (i.lost.toNat + 1) 255), owed := true }

/-- The edges that wait on the lines below `early` are recognized, in line-number order (R104). -/
def recognizedBelow (early : Nat) (s : State) : State :=
  (List.finRange 8).foldl
    (fun s l => if l.val < early ∧ (s.input l).stage2 ≠ (s.input l).synchronized then recognized s l else s) s

/-- One REFCLK rising edge at the input lines (R103): the edges that its predecessor brought about and that still wait are
recognized, and then each synchronizer's first stage samples its pin and the second takes what the first held. -/
def sampled (s : State) (pins : BitVec 8) : State :=
  let t := recognizedBelow 8 s
  { t with
    inputs := Vector.ofFn fun (l : LineNo) =>
      { t.input l with stage1 := if pins.getLsbD l then .high else .low, stage2 := (t.input l).stage1 } }

/-! ## Words for edge records -/

/-- The Line Monitor has record `rec` in hand, and it is slot `n`'s turn, with `rest` after it; slot `n` holds `r`, and its slot
operation can be taken (R111). -/
structure Applying (s : State) (rec : EdgeRecord) (n : SlotNo) (rest : List SlotNo) (r : Reservation) : Prop where
  live : s.rstn = false
  turn : ∃ held, s.monitor = .applying (n :: rest) held
  inHand : s.fifo.head? = some rec
  ready : Ready s n r
  entry : entryOnlyArmed s n r

/-- The application is over: the next slot of the set has its turn, and when there is none the record leaves (R111, R113), with
the edges of the lines below `early` taken before its place is offered (R108). -/
def finished (early : Nat) (rest : List SlotNo) (s : State) : State :=
  match rest with
  | [] => s.recordLeaves early
  | next :: more => { s with monitor := .applying (next :: more) false }

/-- The insertion that an edge application makes at timestamp plus `ticks`, held at 2^64−1 (R50). -/
def edgeEntry (rec : EdgeRecord) (n : SlotNo) (ticks : Word) (windowStart : Option TimeCount) : Insertion :=
  { slot := n, deadline := BitVec.ofNat 64 (min (rec.timestamp.toNat + ticks.toNat) (2 ^ 64 - 1)), windowStart,
    client := .lineMonitor }

/-- The owner and the watchers of a slot. -/
def hears (r : Reservation) (q : PortNo) : Bool := q == r.owner || r.watchers[q]

/-- The copy of a notice for port `q`: a watcher's carries WATCHED (R73). -/
def copyFor (r : Reservation) (notice : Notice) (q : PortNo) : Notice := { notice with watched := q != r.owner }

/-! ## Words for firings -/

/-- The notice of firing `f` of a slot that holds `r`, as port `q` receives it (R72, R73). -/
def firingCopy (s : State) (f : FiringRecord) (r : Reservation) (kind : NoticeKind) : PortNo → Notice :=
  copyFor r { plainNotice s kind f.slot r f.takeTime with
    ref := some f.deadline, value := some (BitVec.ofNat 32 (min f.late.toNat (2 ^ 32 - 1))), count := some f.fireCount,
    missed := if kind = .expired then some f.missed else none, late := decide (0 < f.late.toNat),
    final := kind == .expired && f.final }

/-- Firing `f` after its copies to these ports, so far as they were due, have been delivered (R73). -/
def told (s : State) (f : FiringRecord) (r : Reservation) (sentTo : PortNo → Bool) : State :=
  match f.noticeKind with
  | some kind =>
    copies { s with firing := some { f with copiesDue := Vector.ofFn fun (q : PortNo) => f.copiesDue[q] && !sentTo q } }
      (fun q => f.copiesDue[q] && sentTo q) (firingCopy s f r kind)
  | none => s

/-- Firing `f` after every copy still due has been delivered and then, where it is due, the output action applied (R73, R74). -/
def acted (s : State) (f : FiringRecord) (r : Reservation) : State :=
  let t := told s f r fun _ => true
  match r.action with
  | some a =>
    if f.actionDue then
      { t.setOutput a.line
          { s.output a.line with
            level := match a.action, (s.output a.line).level with
              | .set, _ => .high
              | .clear, _ => .low
              | .toggle, .low => .high
              | .toggle, .high => .low } with
        firing := t.firing.map fun g => { g with actionDue := false } }
    else t
  | none => t

/-- Firing `f`, whose slot holds `r`, after it has been carried on (R72 to R74): the copies named, or every copy and then, where it
is due, the output action; and also the latter when a copy named would arrive in the queue of an OPEN port while the action is
due, so that a host whose queue holds a notice of the firing finds the action applied (R74). -/
def carried (s : State) (f : FiringRecord) (r : Reservation) : FiringStage → State
  | .copies ports =>
    if f.actionDue = true ∧
        ∃ q : PortNo, f.copiesDue[q] = true ∧ ports.getLsbD q = true ∧ (s.port q).session = .opened then acted s f r
    else told s f r fun q => ports.getLsbD q
  | .action => acted s f r

/-! ## Words for teardown -/

/-- The slots that the port owns and that are ARMED. -/
def ownsArmed (s : State) (p : PortNo) (n : SlotNo) : Bool := s.owns p n && (s.armedAt n).isSome

/-- The port owns slot `n`, which is bound to line `l`. -/
def ownsBound (s : State) (p : PortNo) (l : LineNo) (n : SlotNo) : Bool :=
  match s.held n with
  | some r => r.owner == p && r.mode.line == some l
  | none => false

/-- Step 1 of a teardown of port `p` (R139, R164): CLOSING with an empty notice list, and the teardown in hand. -/
def begun (s : State) (p : PortNo) (close : Bool) : State :=
  { s with
    ports := s.ports.set p
      { s.port p with session := .closing, notices := [], holdoffCounter := 0, attn := false }
    engine := .teardown p close 0 0 none }

/-- What a whole teardown of port `p` leaves of `s`, but for the engine and the port's request (R164): the port DETACHED and
holding nothing; its slots FREE with their generations, out of the queue and the binding lists, and passed over by a record
in hand (R111); its lines FREE at their idle levels; the port in no watcher set; and RELEASED for each of its slots, in
slot-number order, at each port that watched it (R13, R14). -/
def tornDown (s : State) (p : PortNo) : State :=
  let goes (n : SlotNo) : Bool := match s.fifo.head? with
    | some rec => ownsBound s p rec.line n
    | none => false
  { s with
    authority := if s.authority = some p then none else s.authority
    slots := Vector.ofFn fun (n : SlotNo) =>
      { generation := (s.slot n).generation,
        held := if s.owns p n then none else (s.held n).map fun r => { r with watchers := r.watchers.set p false } }
    quotas := s.quotas.set p { quota := (s.quota p).quota, owned := (s.quota p).owned - s.ownedCount p }
    outputs := Vector.ofFn fun (l : LineNo) =>
      if (s.output l).claim = some p then
        { level := (s.output l).idleLevel, claim := none, idleLevel := (s.output l).idleLevel }
      else s.output l
    queue := s.queue.filter fun e => !ownsArmed s p e.slot
    inputs := Vector.ofFn fun (l : LineNo) =>
      { s.input l with bindings := (s.input l).bindings.filter fun n => !ownsBound s p l n }
    monitor := match s.monitor with
      | .ready => .ready
      | .applying rest held => .applying (rest.filter fun n => !goes n) held
      | .holding rest => .holding (rest.filter fun n => !goes n)
    ports := Vector.ofFn fun (q : PortNo) =>
      if q = p then { s.port p with session := .detached, notices := [], holdoffCounter := 0, attn := false }
      else
        (List.finRange 64).foldl
          (fun x n => match s.held n with
            | some r =>
              if r.owner = p ∧ r.watchers[q] = true then
                x.arrive s.time { plainNotice s .released n r s.time with watched := true }
              else x
            | none => x)
          (s.port q) }

/-- The slot that the next slot operation of port `p`'s teardown concerns (R164): the lowest-numbered slot it watches, and when
there is none, the lowest-numbered slot it owns. -/
def nextSlot (s : State) (p : PortNo) (n : SlotNo) : Prop :=
  (s.watches p n = true ∧ ∀ m, m < n → s.watches p m = false) ∨
  ((∀ m, s.watches p m = false) ∧ s.owns p n = true ∧ ∀ m, m < n → s.owns p m = false)

/-- Nothing makes a teardown of port `p` wait: no slot it watches or owns is FIRING, and no insertion is in flight (R148). -/
structure Calm (s : State) (p : PortNo) : Prop where
  live : s.rstn = false
  settled : ∀ n, s.watches p n = true ∨ s.owns p n = true → s.isFiring n = false
  quiet : s.insertion = none

/-! ## Words for links -/

/-- Chip select has opened a transaction on the port's link, and its take point is still to come (R155). -/
structure Opened (s : State) (p : PortNo) : Prop where
  live : s.rstn = false
  link : (s.port p).link = .selected .opened

/-- The port answers a transaction with these bytes, and nothing else of it changes (R156). -/
def replies (x : HostPort) (reply : List Byte) : HostPort := { x with link := .selected (.replying reply) }

end Sys2Proof.Claims

open Sys2Proof Sys2Proof.Machine Sys2Proof.Claims

/-! ## The machine -/

/-- Log entry 1: a step executes the command at the front of the queue on the state with the rest of the queue, and on an empty queue
the part idles (the model's choice). -/
def Obligations.StepRunsFrontCommand : Prop :=
  (∀ (c : Instr) (rest : List Instr) (s : State), s.pending = c :: rest → step s = exec c { s with pending := rest }) ∧
  ∀ s : State, s.pending = [] → step s = .next s

/-- Every command has an effect in every state, none of it on the queue of commands: the spec gives every step its effect, and the
model stops nowhere (log entries 2 and 18). -/
def Obligations.EveryCommandCompletes : Prop :=
  ∀ (c : Instr) (s : State), ∃ t, exec c s = .next t ∧ t.pending = s.pending

/-! ## The common checks -/

/-- R149, R150, R151 and R152: the engine answers a granted request of the wrong length LENGTH, and a request other than OPEN on a port
that is not OPEN NOT_OPEN, with the status alone and no other effect.
The model's choices in it are in log entry 5. -/
def Obligations.FrameAndSessionChecks : Prop :=
  ∀ (s : State) (p : PortNo) (c : Req) (params : List Byte),
    s.rstn = false → s.engine = .granted p → (s.port p).request = .executing { code := c.code, params } →
    (params.length ≠ c.length → exec (row c) s = .next (completed s p c .length [])) ∧
    (params.length = c.length → c ≠ .openSession → (s.port p).session ≠ .opened →
      exec (row c) s = .next (completed s p c .notOpen []))

/-- R6 and R9, for the eight requests that name a slot: a parameter out of range is BAD_PARAM whatever the slot; then a number above 63
or a FREE slot is BAD_SLOT; then the caller's right is checked; all at once, whether the slot is FIRING or not. A request that
passes waits at a FIRING slot, and else while an insertion is in flight, and changes nothing meanwhile. -/
def Obligations.SlotRequestsCheckThenWait : Prop :=
  ∀ (s : State) (p : PortNo) (c : Req) (params : List Byte), c ∈ slotRequests → Granted s p c params →
    (offered c params 0 = none → exec (row c) s = .next (completed s p c .badParam [])) ∧
    (∀ n : SlotNo, offered c params n ≠ none → byteAt params 0 = n.val → s.held n = none →
      exec (row c) s = .next (completed s p c .badSlot [])) ∧
    (offered c params 0 ≠ none → 63 < byteAt params 0 → exec (row c) s = .next (completed s p c .badSlot [])) ∧
    (∀ (n : SlotNo) (r : Reservation) (op : SlotOp), offered c params n = some op → byteAt params 0 = n.val →
      s.held n = some r →
      (∀ status, noRight c p r = some status → exec (row c) s = .next (completed s p c status [])) ∧
      (noRight c p r = none → r.run.isFiring = true →
        exec (row c) s = .next { s with engine := .waiting p op (.firing n) }) ∧
      (noRight c p r = none → r.run.isFiring = false → s.insertion ≠ none →
        exec (row c) s = .next { s with engine := .waiting p op .insertion }))

/-- R40 step 1, R42 and R171: the parameters of a CONFIGURE or an ARM that are not the encoding of a mode, tag and action, or of an ARM
form, within their ranges are answered BAD_PARAM. -/
def Obligations.ConfigureAndArmRanges : Prop :=
  ∀ (s : State) (p : PortNo) (v : Byte) (params : List Byte),
    (Granted s p .configure (v :: params) →
      (¬∃ mode tag action, mode.inRange = true ∧ v :: params = configureBytes v mode tag action) →
      exec .configure s = .next (completed s p .configure .badParam [])) ∧
    (Granted s p .arm (v :: params) → (¬∃ form, armInRange form = true ∧ params = armBytes form) →
      exec .arm s = .next (completed s p .arm .badParam []))

/-! ## Sessions -/

/-- R138 and R162: OPEN on a DETACHED port makes it OPEN with the next session number and the session defaults; on an OPEN port it is
answered STATE and changes nothing. (The list of a DETACHED port is empty, R139.) -/
def Obligations.OpenBeginsSession : Prop :=
  ∀ (s : State) (p : PortNo), Granted s p .openSession [] →
    ((s.port p).session = .detached → (s.port p).notices = [] →
      exec .openSession s = .next
        (completed
          (s.setPort p { s.port p with
            session := .opened, sessionNumber := (s.port p).sessionNumber + 1, nextSeq := 0, threshold := 1, holdoff := 0,
            attn := false })
          p .openSession .ok
          ([(s.port p).sessionNumber + 1, BitVec.ofNat 8 (s.quota p).quota, BitVec.ofNat 8 (s.quota p).owned]
            ++ bytesBE 8 s.time.toNat))) ∧
    ((s.port p).session = .opened →
      exec .openSession s = .next (completed s p .openSession .state [(s.port p).sessionNumber]))

/-- R13, R111, R139, R147, R148, R163, R164 and R165: a teardown that meets no insertion and no firing of a slot that its port watches or
owns returns everything the port holds, in a CLOSE request, in a grant of a pending teardown, and in the going on of a teardown
whose first step is done. A CLOSE completes with the session number and the numbers of slots and lines released, or, with
the reset mark set, without a response and without a second teardown. Operation by operation: the first step leaves the port
CLOSING, with all it holds but its notices; authority is freed before any slot is reached; then the lowest-numbered watcher
removal, and else release, is taken, or waits at a FIRING slot, and else while an insertion is in flight; then the lowest-numbered
line goes to its idle level; then the port, still CLOSING, becomes DETACHED.
The model's choice in it, the operand `pause` that counts the operations after the first step, is in log entry 7. -/
def Obligations.TeardownReturnsEverything : Prop :=
  ∀ (s : State) (p : PortNo),
    let held := BitVec.ofNat 8 (s.claimedLines p).length
    let asked : State := { s.setPort p { s.port p with teardownPending := false } with pointer := p + 1 }
    (Calm s p →
      (Granted s p .closeSession [] →
        exec (.closeSession none) s = .next
          (completed (tornDown s p) p .closeSession .ok
            [(s.port p).sessionNumber, BitVec.ofNat 8 (s.ownedCount p), held])) ∧
      (s.engine = .free → s.nextCandidate = some p → (∀ f, (s.port p).request ≠ .queued f) →
        exec (.portArbiterGrant none) s = .next { tornDown asked p with engine := .free }) ∧
      (∀ close released lines on params, s.engine = .teardown p close released lines on →
        (close = true → (s.port p).request = .executing { code := 0x02, params }) →
        (s.port p).notices = [] → (s.port p).holdoffCounter = 0 →
        exec (.secondStageOperation .engine none) s = .next
          (if close then
            completed (tornDown s p) p .closeSession .ok
              [(s.port p).sessionNumber, BitVec.ofNat 8 (released + s.ownedCount p),
                BitVec.ofNat 8 (lines + (s.claimedLines p).length)]
          else { tornDown s p with engine := .free }))) ∧
    (s.rstn = false →
      (Granted s p .closeSession [] → exec (.closeSession (some 0)) s = .next (begun s p true)) ∧
      (s.engine = .free → s.nextCandidate = some p → (∀ f, (s.port p).request ≠ .queued f) →
        exec (.portArbiterGrant (some 0)) s = .next (begun asked p false)) ∧
      (∀ close released lines on, s.engine = .teardown p close released lines on →
        let goesOn (k : Nat) (taken : State) : Prop :=
          ∃ t, exec (.secondStageOperation .engine (some (k + 1))) s = .next t ∧
            exec (.secondStageOperation .engine (some k)) taken = .next t
        exec (.secondStageOperation .engine (some 0)) s = .next s ∧
        (s.authority = some p → ∀ k : Nat,
          goesOn k { s with authority := none, engine := .teardown p close released lines none }) ∧
        (s.authority ≠ some p →
          (∀ n, nextSlot s p n →
            (∀ pause, pause ≠ some 0 → s.isFiring n = true →
              exec (.secondStageOperation .engine pause) s = .next
                { s with engine := .teardown p close released lines (some (.firing n)) }) ∧
            (∀ pause, pause ≠ some 0 → s.isFiring n = false → s.insertion ≠ none →
              exec (.secondStageOperation .engine pause) s = .next
                { s with engine := .teardown p close released lines (some .insertion) }) ∧
            (∀ (k : Nat) (r : Reservation), s.held n = some r → s.isFiring n = false → s.insertion = none →
              entryOnlyArmed s n r →
              goesOn k
                (if r.watchers[p] = true then
                  { s.setHeld n { r with watchers := r.watchers.set p false } with
                    engine := .teardown p close released lines none }
                else { freed s n r with engine := .teardown p close (released + 1) lines none }))) ∧
          ((∀ n, s.watches p n = false ∧ s.owns p n = false) →
            (∀ (l : LineNo) (k : Nat), (s.output l).claim = some p →
              (∀ m : LineNo, m < l → (s.output m).claim ≠ some p) →
              goesOn k
                { s.setOutput l
                    { level := (s.output l).idleLevel, claim := none, idleLevel := (s.output l).idleLevel } with
                  engine := .teardown p close released (lines + 1) none }) ∧
            (∀ k params, (∀ l, (s.output l).claim ≠ some p) →
              (close = true → (s.port p).request = .executing { code := 0x02, params }) →
              let detached : State := s.setPort p { s.port p with session := .detached, attn := false }
              exec (.secondStageOperation .engine (some (k + 1))) s = .next
                (if close then
                  completed detached p .closeSession .ok
                    [(s.port p).sessionNumber, BitVec.ofNat 8 released, BitVec.ofNat 8 lines]
                else { detached with engine := .free }))))))

/-- R5, R148 and R165 (log entry 7): a teardown that gives the other clients their turn after `k` operations, and is then gone on with, leaves
what it leaves when it runs on at once; a grant of a request and a waiting request are not changed by `k`. -/
def Obligations.TeardownPauseChangesNothing : Prop :=
  ∀ (s : State) (k : Nat) (c : Option Nat → Instr),
    c = .closeSession ∨ c = .portArbiterGrant ∨ c = (fun pause => .secondStageOperation .engine pause) →
    ∃ t, exec (c (some k)) s = .next t ∧
      (exec (c none) s = .next t ∨ exec (.secondStageOperation .engine none) t = exec (c none) s)

/-! ## Slots -/

/-- R10: RESERVE is answered NO_QUOTA when owned has reached the quota, and otherwise takes the lowest-numbered FREE slot for the
caller, IDLE, PRIVATE and ONE_SHOT, with the generation raised; while an insertion is in flight it waits. -/
def Obligations.ReserveTakesLowestFreeSlot : Prop :=
  ∀ (s : State) (p : PortNo), Granted s p .reserve [] →
    ((s.quota p).quota ≤ (s.quota p).owned → exec .reserve s = .next (completed s p .reserve .noQuota [])) ∧
    ((s.quota p).owned < (s.quota p).quota → s.insertion ≠ none →
      exec .reserve s = .next { s with engine := .waiting p .reserve .insertion }) ∧
    (∀ n : SlotNo, (s.quota p).owned < (s.quota p).quota → s.insertion = none → s.held n = none →
      (∀ m : SlotNo, m < n → s.held m ≠ none) →
      exec .reserve s = .next
        (completed
          { s with
            slots := s.slots.set n
              { generation := (s.slot n).generation + 1,
                held := some
                  { owner := p, share := .priv, watchers := Vector.replicate 4 false, tag := 0, mode := .oneShot,
                    action := none, fireCount := 0, run := .idle } }
            quotas := s.quotas.set p { s.quota p with owned := (s.quota p).owned + 1 } }
          p .reserve .ok (BitVec.ofNat 8 n.val :: bytesBE 2 ((s.slot n).generation + 1).toNat)))

/-- R11, R13 and R14: RELEASE takes an ARMED slot's entry out, drops the binding, sends RELEASED to the watchers and not to the owner,
makes the slot FREE with its generation, and lowers the owner's owned by 1. No output line is touched. -/
def Obligations.ReleaseFreesSlot : Prop :=
  ∀ (s : State) (p : PortNo) (n : SlotNo) (r : Reservation),
    Granted s p .release [BitVec.ofNat 8 n.val] → Ready s n r → r.owner = p → r.watchers[p] = false →
    entryOnlyArmed s n r →
    exec .release s = .next
      (completed
        (freed s n r) p .release .ok (BitVec.ofNat 8 n.val :: bytesBE 2 (s.slot n).generation.toNat))

/-- R15 and R16: SET_SHARE sets the share; making an OPEN slot PRIVATE empties the watcher set and sends UNWATCHED to each removed
port. -/
def Obligations.SetShareOpensAndCloses : Prop :=
  ∀ (s : State) (p : PortNo) (n : SlotNo) (r : Reservation) (share : Share),
    Granted s p .setShare [BitVec.ofNat 8 n.val, share.code] → Ready s n r → r.owner = p → r.watchers[p] = false →
    exec .setShare s = .next
      (completed
        (match r.share, share with
          | .priv, .priv => s
          | .opn, .opn => s
          | .priv, .opn => s.setHeld n { r with share := .opn }
          | .opn, .priv =>
            copies (s.setHeld n { r with share := .priv, watchers := Vector.replicate 4 false })
              (fun q => r.watchers[q]) fun _ => { plainNotice s .unwatched n r s.time with watched := true })
        p .setShare .ok [share.code])

/-- R17 and R19: WATCH adds the caller to the watcher set of another port's OPEN slot and returns its generation and state; UNWATCH removes
the caller. Neither sends a notice. -/
def Obligations.WatchAndUnwatch : Prop :=
  ∀ (s : State) (p : PortNo) (n : SlotNo) (r : Reservation), Ready s n r →
    (Granted s p .watch [BitVec.ofNat 8 n.val] → r.owner ≠ p → r.share = .opn →
      exec .watch s = .next
        (completed (s.setHeld n { r with watchers := r.watchers.set p true }) p .watch .ok
          (bytesBE 2 (s.slot n).generation.toNat ++ [r.run.code]))) ∧
    (Granted s p .unwatch [BitVec.ofNat 8 n.val] → r.watchers[p] = true →
      exec .unwatch s = .next
        (completed (s.setHeld n { r with watchers := r.watchers.set p false }) p .unwatch .ok []))

/-- R20, R172 and R174: QUERY returns the 56-byte slot record to the owner, or to any port when the share is OPEN, and changes
nothing in the slot. -/
def Obligations.QueryReturnsSlotRecord : Prop :=
  ∀ (s : State) (p : PortNo) (n : SlotNo) (r : Reservation),
    Granted s p .query [BitVec.ofNat 8 n.val] → Ready s n r → (r.owner = p ∨ r.share = .opn) →
    ∃ record, exec .query s = .next (completed s p .query .ok record) ∧ record.length = 56 ∧
      fieldBE record 0 1 = n.val ∧ fieldBE record 1 1 = r.run.code.toNat ∧ fieldBE record 2 1 = r.owner.val ∧
      fieldBE record 3 1 = r.share.code.toNat ∧ (∀ q : PortNo, (fieldBE record 4 1).testBit q.val = r.watchers[q]) ∧
      fieldBE record 5 2 = (s.slot n).generation.toNat ∧ fieldBE record 7 4 = r.tag.toNat ∧
      (record.drop 11).take 21 = r.mode.block ∧ (record.drop 32).take 2 = actionBytes r.action ∧
      fieldBE record 34 2 = r.fireCount.toNat ∧ fieldBE record 36 8 = r.run.deadlineField.toNat ∧
      fieldBE record 44 4 = r.run.remainingField.toNat ∧ fieldBE record 48 8 = r.run.windowStartField.toNat

/-- R21: GIVE_QUOTA checks the count, the recipient and the unused quota, in that order, and moves the units in one operation. -/
def Obligations.GiveQuotaMovesUnits : Prop :=
  ∀ (s : State) (p : PortNo) (dest n : Byte), Granted s p .giveQuota [dest, n] →
    exec .giveQuota s = .next
      (if n.toNat < 1 ∨ 64 < n.toNat then completed s p .giveQuota .badParam []
      else if 3 < dest.toNat ∨ dest.toNat = p.val then completed s p .giveQuota .badParam []
      else if (s.quota p).quota - (s.quota p).owned < n.toNat then completed s p .giveQuota .noQuota []
      else
        completed
          { s with
            quotas := Vector.ofFn fun q =>
              if q = p then { s.quota p with quota := (s.quota p).quota - n.toNat }
              else if q.val = dest.toNat then { s.quota q with quota := (s.quota q).quota + n.toNat }
              else s.quota q }
          p .giveQuota .ok [BitVec.ofNat 8 ((s.quota p).quota - n.toNat), BitVec.ofNat 8 (s.quota p).owned])

/-! ## Timer modes -/

/-- R40 and R41: a CONFIGURE whose mode is in range is refused with STATE outside IDLE, with NOT_CLAIMED for an action on a line the owner
does not claim, and with LINE_FULL for a line whose list holds 8 other slots; otherwise mode, tag and action are replaced and the
binding follows the mode. -/
def Obligations.ConfigureReplacesMode : Prop :=
  ∀ (s : State) (p : PortNo) (n : SlotNo) (r : Reservation) (mode : Mode) (tag : Word) (action : Option OutputAction),
    Granted s p .configure (configureBytes (BitVec.ofNat 8 n.val) mode tag action) → mode.inRange = true →
    Ready s n r → r.owner = p →
    exec .configure s = .next
      (if r.run ≠ .idle then completed s p .configure .state []
      else if ∃ a ∈ action, (s.output a.line).claim ≠ some p then completed s p .configure .notClaimed []
      else if ∃ l ∈ mode.line, 8 ≤ (s.input l).bindings.length ∧ n ∉ (s.input l).bindings then
        completed s p .configure .lineFull []
      else
        completed
          ((if r.mode.line = mode.line then s
            else joinsList (leavesList s n r.mode.line) n mode.line).setHeld n { r with mode, tag, action })
          p .configure .ok (BitVec.ofNat 8 n.val :: bytesBE 2 (s.slot n).generation.toNat))

/-- R42 to R46 and R171: an ARM is refused with STATE outside IDLE, with BAD_PARAM for a form that does not suit the mode, with RANGE beyond
2^64−1 and with PAST, which raises the generation. Otherwise the generation rises, the fire count is 0, and the slot is
inserted at its deadline, PAUSED with its duration, or WAITING.
The model's choices in it are in log entry 8 and, for the generation and fire count written while the insertion walks, 19. -/
def Obligations.ArmStartsSlot : Prop :=
  ∀ (s : State) (p : PortNo) (n : SlotNo) (r : Reservation) (form : ArmForm),
    Granted s p .arm (BitVec.ofNat 8 n.val :: armBytes form) → armInRange form = true → Ready s n r → r.owner = p →
    let generation := (s.slot n).generation + 1
    let fresh : Reservation := { r with fireCount := 0 }
    let raised : State := s.setSlot n { generation, held := some fresh }
    let inserted (deadline : TimeCount) : State :=
      let results := bytesBE 2 generation.toNat ++ [2] ++ bytesBE 8 deadline.toNat ++ bytesBE 4 0
        ++ bytesBE 8 s.time.toNat
      entered { raised with engine := .inserting p }
        { slot := n, deadline, windowStart := none, client := .engine p results } fresh
        fun t => completed t p .arm .ok results
    let refused : State :=
      completed raised p .arm .past (bytesBE 2 generation.toNat ++ bytesBE 8 s.time.toNat)
    let timed (deadline : Nat) (refuse : Bool) : State :=
      if 2 ^ 64 ≤ deadline then completed s p .arm .range []
      else if refuse ∧ deadline ≤ s.time.toNat then refused
      else inserted (BitVec.ofNat 64 deadline)
    let still (run : Run) (code : Byte) (remaining : Nat) : State :=
      completed (s.setSlot n { generation, held := some { fresh with run } }) p .arm .ok
        (bytesBE 2 generation.toNat ++ [code] ++ bytesBE 8 0 ++ bytesBE 4 remaining ++ bytesBE 8 s.time.toNat)
    exec .arm s = .next
      (if r.run ≠ .idle then completed s p .arm .state []
      else match form, r.mode with
        | .absolute time refuse, .oneShot => timed time.toNat refuse
        | .absolute time refuse, .periodic _ _ => timed time.toNat refuse
        | .relative time refuse, .oneShot => timed (s.time.toNat + time.toNat) refuse
        | .relative time refuse, .periodic _ _ => timed (s.time.toNat + time.toNat) refuse
        | .duration ticks, .gated line active _ _ =>
          if (s.input line).processed = active then timed (s.time.toNat + ticks.toNat) false
          else still (.paused ticks) 3 ticks.toNat
        | .none, .triggered _ _ _ _ _ _ _ => still .waiting 4 0
        | .none, .window _ _ _ _ _ _ => still .waiting 4 0
        | _, _ => completed s p .arm .badParam [])

/-- R47 and R48: DISARM of an IDLE slot is answered NOT_ARMED and changes nothing; any other slot becomes IDLE, losing its entry, and each
watcher receives CANCELLED with the fire count, and the deadline of an ARMED slot as its ref. -/
def Obligations.DisarmStopsSlot : Prop :=
  ∀ (s : State) (p : PortNo) (n : SlotNo) (r : Reservation),
    Granted s p .disarm [BitVec.ofNat 8 n.val] → Ready s n r → r.owner = p → r.watchers[p] = false →
    entryOnlyArmed s n r →
    exec .disarm s = .next
      (if r.run = .idle then
        completed s p .disarm .notArmed (bytesBE 2 r.fireCount.toNat ++ [1])
      else
        completed
          (copies ((dequeued s n).setHeld n { r with run := .idle }) (fun q => r.watchers[q]) fun _ =>
            { plainNotice s .cancelled n r s.time with
              ref := match r.run with
                | .armed deadline _ => some deadline
                | _ => none
              value := some (BitVec.ofNat 32 r.fireCount.toNat), watched := true })
          p .disarm .ok (bytesBE 2 r.fireCount.toNat ++ [r.run.code]))

/-! ## The timebase -/

/-- R89 and R90: TAKE_AUTHORITY gives authority while the holder is none and is answered AUTH_HELD with the holder's number when another
port holds it; YIELD_AUTHORITY is the holder's alone and leaves the holder none. -/
def Obligations.AuthorityTakenAndYielded : Prop :=
  ∀ (s : State) (p : PortNo),
    (Granted s p .takeAuthority [] →
      exec .takeAuthority s = .next
        (match s.authority with
        | none => completed { s with authority := some p } p .takeAuthority .ok [BitVec.ofNat 8 p.val]
        | some q =>
          if q = p then completed s p .takeAuthority .ok [BitVec.ofNat 8 p.val]
          else completed s p .takeAuthority .authHeld [BitVec.ofNat 8 q.val])) ∧
    (Granted s p .yieldAuthority [] →
      exec .yieldAuthority s = .next
        (if s.authority = some p then completed { s with authority := none } p .yieldAuthority .ok []
        else completed s p .yieldAuthority .noAuthority []))

/-- R88, R92 and R93: STEP checks its range, authority, the slew and the end of the time range, in that order, and then advances the time
count by delta with a STEPPED copy to every OPEN port. -/
def Obligations.StepAdvancesTime : Prop :=
  ∀ (s : State) (p : PortNo) (delta : Nat), delta < 2 ^ 64 → Granted s p .stepTime (bytesBE 8 delta) →
    exec .stepTime s = .next
      (if delta < 1 ∨ 2 ^ 48 ≤ delta then completed s p .stepTime .badParam []
      else if s.authority ≠ some p then completed s p .stepTime .noAuthority []
      else if s.slew ≠ none then completed s p .stepTime .slewing []
      else if 2 ^ 64 ≤ s.time.toNat + delta then completed s p .stepTime .range []
      else
        completed
          (copies { s with time := s.time + BitVec.ofNat 64 delta } (fun q => (s.port q).session == .opened) fun _ =>
            { kind := .stepped, slot := none, generation := none, tag := none,
              eventTime := s.time + BitVec.ofNat 64 delta, ref := some s.time, value := some (BitVec.ofNat 32 delta),
              count := none, missed := none, late := false, final := false, watched := false,
              big := decide (2 ^ 32 ≤ delta) })
          p .stepTime .ok (bytesBE 8 s.time.toNat ++ bytesBE 8 (s.time.toNat + delta)))

/-- R88, R95, R97 and R98: SLEW checks its ranges, authority and the slew, and creates the slew record; CANCEL_SLEW ends the slew, with
SLEW_DONE for the initiator and the unapplied amount in the response, and moves no count. -/
def Obligations.SlewStartsAndCancels : Prop :=
  ∀ (s : State) (p : PortNo),
    (∀ (amount : BitVec 32) (span : Nat), span < 2 ^ 32 →
      Granted s p .slew (bytesBE 4 amount.toNat ++ bytesBE 4 span) →
      exec .slew s = .next
        (if amount = 0 ∨ span = 0 ∨ span < amount.toInt.natAbs then completed s p .slew .badParam []
        else if s.authority ≠ some p then completed s p .slew .noAuthority []
        else if s.slew ≠ none then completed s p .slew .slewing []
        else
          completed
            { s with
              slew := some
                { initiator := p, amount := amount.toInt, span, remaining := amount.toInt, ticksRemaining := span,
                  accumulator := 0, startCount := s.time } }
            p .slew .ok (bytesBE 8 s.time.toNat))) ∧
    (Granted s p .cancelSlew [] →
      exec .cancelSlew s = .next
        (if s.authority ≠ some p then completed s p .cancelSlew .noAuthority []
        else match s.slew with
          | none => completed s p .cancelSlew .state []
          | some r =>
            completed
              (copies { s with slew := none } (fun q => q == r.initiator) fun _ =>
                { kind := .slewDone, slot := none, generation := none, tag := none, eventTime := s.time,
                  ref := some r.startCount, value := some (BitVec.ofInt 32 r.remaining), count := none, missed := none,
                  late := false, final := false, watched := false, big := false })
              p .cancelSlew .ok (bytesBE 4 (BitVec.ofInt 32 r.remaining).toNat)))

/-- R87: SET_DIVISOR checks its range and authority and sets the pending divisor, and nothing else. -/
def Obligations.SetDivisorIsPending : Prop :=
  ∀ (s : State) (p : PortNo) (divisor : Nat), divisor < 2 ^ 16 → Granted s p .setDivisor (bytesBE 2 divisor) →
    exec .setDivisor s = .next
      (if divisor < 1 ∨ 4096 < divisor then completed s p .setDivisor .badParam []
      else if s.authority ≠ some p then completed s p .setDivisor .noAuthority []
      else completed { s with pendingDivisor := some divisor } p .setDivisor .ok (bytesBE 2 divisor))

/-- R84, R85, R86, R96, R97 and R103: at a tick event the synchronizers sample, unless the tick was left due by the REFCLK edge whose
levels they have sampled already, and the edges of the lines below `early` are recognized before the advance; the division ends and
a pending divisor takes effect; the time count advances by 1, or under a slew by 2, 0 or 1 as the accumulator says, and holds at
2^64−1; every holdoff counter counts one tick; the slew's last tick ends it, as TICK_EVENT and as SLEW_END, with SLEW_DONE for its
initiator in the order `doneFirst` gives.
The model's choices in it are in log entries 10, 11 and 12. -/
def Obligations.TickAdvancesTime : Prop :=
  ∀ (s : State) (pins : BitVec 8) (early : Nat) (doneFirst : Bool), s.rstn = false →
    s.tickDue = true ∨ s.divisor ≤ s.divider + 1 →
    let held (n : Nat) : TimeCount := BitVec.ofNat 64 (min n (2 ^ 64 - 1))
    let counted (x : HostPort) : HostPort :=
      if x.notices = [] then x
      else HostPort.drive { x with holdoffCounter := BitVec.ofNat 16 (min (x.holdoffCounter.toNat + 1) 65535) }
    let ticked (advance : Nat) (slew : Option Slew) (port : PortNo → HostPort) : State :=
      { recognizedBelow early (if s.tickDue then s else sampled s pins) with
        time := held (s.time.toNat + advance), divider := 0, tickDue := false,
        divisor := s.pendingDivisor.getD s.divisor, pendingDivisor := none, slew, ports := Vector.ofFn port }
    (s.slew = none → exec (.tickEvent pins early doneFirst) s = .next (ticked 1 none fun q => counted (s.port q))) ∧
    (∀ r, s.slew = some r → 1 ≤ r.ticksRemaining →
      let sum := r.accumulator + r.amount.natAbs
      let corrects := decide (r.span ≤ sum)
      let advance := if corrects then (if 0 < r.amount then 2 else 0) else 1
      let remaining := if corrects then (if 0 < r.amount then r.remaining - 1 else r.remaining + 1) else r.remaining
      (1 < r.ticksRemaining →
        exec (.tickEvent pins early doneFirst) s = .next
          (ticked advance
            (some { r with
              remaining, ticksRemaining := r.ticksRemaining - 1, accumulator := if corrects then sum - r.span else sum })
            fun q => counted (s.port q))) ∧
      (r.ticksRemaining = 1 →
        let now := held (s.time.toNat + advance)
        let done : Notice :=
          { kind := .slewDone, slot := none, generation := none, tag := none, eventTime := now, ref := some r.startCount,
            value := some (BitVec.ofInt 32 remaining), count := none, missed := none, late := false, final := false,
            watched := false, big := false }
        let ended : State := ticked advance none fun q =>
          if q ≠ r.initiator then counted (s.port q)
          else if doneFirst then counted ((s.port q).arrive now done)
          else (counted (s.port q)).arrive now done
        exec (.tickEvent pins early doneFirst) s = .next ended ∧ exec (.slewEnd pins early doneFirst) s = .next ended))

/-- R85 and R103: a REFCLK rising edge that does not bring the divider count to the divisor raises it by 1, and the synchronizers sample,
after the edges that still wait from the edge before have been recognized; an edge that brings the count there is a tick event,
or with `tickLater` leaves its tick due after the sampling (R84). A tick that is due is taken ahead of the next REFCLK edge.
While RSTn is asserted the synchronizers sample and nothing is counted (R168), and the synchronized and processed levels follow
the second stage (the model's choice, log entry 14).
The model's choices in it are in log entries 10, 11 and 14. -/
def Obligations.RefclkSamplesAndDivides : Prop :=
  ∀ (s : State) (pins : BitVec 8) (tickLater : Bool),
    (s.rstn = false → s.tickDue = false → s.divider + 1 < s.divisor →
      exec (.refclkRisingEdge pins tickLater) s = .next { sampled s pins with divider := s.divider + 1 }) ∧
    (s.rstn = false → s.tickDue = false → s.divisor ≤ s.divider + 1 →
      (∃ t, exec (.refclkRisingEdge pins false) s = .next t ∧ exec (.tickEvent pins 0 false) s = .next t) ∧
      exec (.refclkRisingEdge pins true) s = .next { sampled s pins with tickDue := true }) ∧
    (s.rstn = false → s.tickDue = true →
      ∃ t u, exec (.tickEvent pins 0 false) s = .next t ∧ t.tickDue = false ∧
        exec (.refclkRisingEdge pins tickLater) t = .next u ∧ exec (.refclkRisingEdge pins tickLater) s = .next u) ∧
    (s.rstn = true →
      exec (.refclkRisingEdge pins tickLater) s = .next
        { s with
          inputs := Vector.ofFn fun (l : LineNo) =>
            { s.input l with
              stage1 := if pins.getLsbD l then .high else .low, stage2 := (s.input l).stage1,
              synchronized := (s.input l).stage1, processed := (s.input l).stage1 } })

/-! ## Lines -/

/-- R116, R117 and R118: CLAIM_OUTPUT claims a FREE line or the caller's own with a new idle level and moves no line, and is answered
LINE_HELD with the claimant's number otherwise; DRIVE_OUTPUT drives a line the caller claims, and only such a line. -/
def Obligations.OutputsClaimedAndDriven : Prop :=
  ∀ (s : State) (p : PortNo) (v x : Byte),
    (Granted s p .claimOutput [v, x] →
      (7 < v.toNat ∨ 1 < x.toNat → exec .claimOutput s = .next (completed s p .claimOutput .badParam [])) ∧
      (∀ (l : LineNo) (level : Level), v = BitVec.ofNat 8 l.val → x = level.code →
        exec .claimOutput s = .next
          (if (s.output l).claim = none ∨ (s.output l).claim = some p then
            completed (s.setOutput l { s.output l with claim := some p, idleLevel := level }) p .claimOutput .ok
              [v, (s.output l).level.code, level.code]
          else completed s p .claimOutput .lineHeld [BitVec.ofNat 8 (((s.output l).claim.map Fin.val).getD 0)]))) ∧
    (Granted s p .driveOutput [v, x] →
      (7 < v.toNat ∨ 1 < x.toNat → exec .driveOutput s = .next (completed s p .driveOutput .badParam [])) ∧
      (∀ (l : LineNo) (level : Level), v = BitVec.ofNat 8 l.val → x = level.code →
        exec .driveOutput s = .next
          (if (s.output l).claim = some p then
            completed (s.setOutput l { s.output l with level }) p .driveOutput .ok [level.code]
          else completed s p .driveOutput .notClaimed [])))

/-- R119: RELEASE_OUTPUT needs the caller's claim and no output action of the caller's slots on the line, FIRING or not; it drives the line
to its idle level and makes it FREE. -/
def Obligations.ReleaseOutputEndsClaim : Prop :=
  ∀ (s : State) (p : PortNo) (v : Byte), Granted s p .releaseOutput [v] →
    (7 < v.toNat → exec .releaseOutput s = .next (completed s p .releaseOutput .badParam [])) ∧
    (∀ l : LineNo, v = BitVec.ofNat 8 l.val →
      ((s.output l).claim ≠ some p →
        exec .releaseOutput s = .next (completed s p .releaseOutput .notClaimed [])) ∧
      ((s.output l).claim = some p →
        (∃ n, ∃ r ∈ s.held n, r.owner = p ∧ ∃ a ∈ r.action, a.line = l) →
        exec .releaseOutput s = .next (completed s p .releaseOutput .lineBound [])) ∧
      ((s.output l).claim = some p →
        (¬∃ n, ∃ r ∈ s.held n, r.owner = p ∧ ∃ a ∈ r.action, a.line = l) →
        exec .releaseOutput s = .next
          (completed
            (s.setOutput l
              { level := (s.output l).idleLevel, claim := none, idleLevel := (s.output l).idleLevel })
            p .releaseOutput .ok [(s.output l).idleLevel.code])))

/-- R104, R105 and R107: the recognition of an edge brings the line's synchronized level to the synchronizer's. With no binding and no record
of the line the edge is not queued; else it enters the FIFO as a record of kind EDGE, or at a full FIFO it is dropped and counted,
and the line becomes owed. -/
def Obligations.EdgeRecognizedThreeWays : Prop :=
  ∀ (s : State) (l : LineNo), s.rstn = false → (s.input l).stage2 ≠ (s.input l).synchronized →
    (∀ k, k < l → (s.input k).stage2 = (s.input k).synchronized) →
    exec (.edgeRecognized l) s = .next (recognized s l)

/-- R109, R110, R111 and R113: in READY the Line Monitor takes the head record; with lost edges each bound slot's owner is sent EDGE_LOST in
list order, and the count is cleared; the processed level is set; the application set is the binding list, or its GATED slots for a
level record; an empty set lets the record leave at once.
The model's choices in it are in log entry 16. -/
def Obligations.RecordTakeReportsAndFixesSet : Prop :=
  ∀ (s : State) (early : Nat) (rec : EdgeRecord) (more : List EdgeRecord), s.rstn = false → s.monitor = .ready →
    s.fifo = rec :: more →
    let i := s.input rec.line
    let set : List SlotNo := match rec.kind with
      | .edge => i.bindings
      | .level => i.bindings.filter fun n => (s.held n).any fun r => r.mode.isGated
    let lostNotice (n : SlotNo) (r : Reservation) : Notice :=
      { plainNotice s .edgeLost n r s.time with
        ref := some rec.timestamp, value := some (BitVec.ofNat 32 i.lost.toNat) }
    let reported (q : PortNo) : HostPort :=
      if i.lost = 0 then s.port q
      else
        i.bindings.foldl
          (fun x n => match s.held n with
            | some r => if r.owner = q then x.arrive s.time (lostNotice n r) else x
            | none => x)
          (s.port q)
    let taken : State :=
      { s with
        ports := Vector.ofFn reported
        inputs := s.inputs.set rec.line
          { i with processed := if rec.direction = .rise then .high else .low, lost := 0 } }
    exec (.recordTake early) s = .next
      (if set = [] then taken.recordLeaves early else { taken with monitor := .applying set false })

/-- R108 and R113: when a record leaves, the Line Monitor is READY. The edges of the lines below `early` are taken first; then owed lines with
no binding and no record are brought up to date in line-number order, up to the first other owed line, which gets one level record
with the time count if a place remains, and else waits; the lines after it wait. EDGE_APPLICATION lets a record with nothing left
in its set leave.
The model's choices in it are in log entries 17 and 20. -/
def Obligations.RecordLeavesServesOwedLine : Prop :=
  ∀ (s : State) (early : Nat),
    let left : State := recognizedBelow early { s with fifo := s.fifo.tail, monitor := .ready }
    let unserved (l : LineNo) : Prop := (left.input l).bindings = [] ∧ ∀ rec ∈ left.fifo, rec.line ≠ l
    let settled (l : LineNo) : InputLine :=
      { left.input l with processed := (left.input l).synchronized, lost := 0, owed := false }
    ((∀ l, (left.input l).owed = true → unserved l) →
      s.recordLeaves early =
        { left with inputs := Vector.ofFn fun l => if (left.input l).owed then settled l else left.input l }) ∧
    (∀ l, (left.input l).owed = true → ¬unserved l → (∀ k, k < l → (left.input k).owed = true → unserved k) →
      s.recordLeaves early =
        { left with
          fifo := if left.fifo.length < 16 then
              left.fifo ++
                [{ line := l, direction := if (left.input l).synchronized = .high then .rise else .fall,
                   timestamp := s.time, kind := .level }]
            else left.fifo,
          inputs := Vector.ofFn fun k =>
            if k < l then (if (left.input k).owed then settled k else left.input k)
            else if k = l ∧ left.fifo.length < 16 then { left.input l with owed := false }
            else left.input k }) ∧
    (∀ held, s.rstn = false → s.monitor = .applying [] held →
      exec (.edgeApplication early) s = .next (s.recordLeaves early))

/-- R51: a record that opens the gate inserts a PAUSED slot at timestamp plus remaining; one that closes it takes an ARMED slot out, PAUSED
with what was left, between 0 and 2^32−1; any other meeting changes nothing but the turn. Both kinds of record act so.
The model's choices in it are in log entries 8 and 17. -/
def Obligations.GatedSlotFollowsGate : Prop :=
  ∀ (s : State) (early : Nat) (rec : EdgeRecord) (n : SlotNo) (rest : List SlotNo) (r : Reservation) (line : LineNo) (active : Level)
    (period : Option Word) (repeatLimit : Half), Applying s rec n rest r → r.mode = .gated line active period repeatLimit →
    exec (.edgeApplication early) s = .next
      (match r.run, decide ((if rec.direction = .rise then Level.high else Level.low) = active) with
      | .paused remaining, true => entered s (edgeEntry rec n remaining none) r (finished early rest)
      | .armed deadline _, false =>
        finished early rest ((dequeued s n).setHeld n
          { r with
            run := .paused (BitVec.ofNat 32 (min (deadline.toNat - rec.timestamp.toNat) (2 ^ 32 - 1))) })
      | _, _ => finished early rest s)

/-- R53: a matching record of kind EDGE starts a WAITING slot, and with RESTART an ARMED one, at timestamp plus delay with fire count 0; any
other meeting changes nothing but the turn, and a level record passes the slot over (R111).
The model's choices in it are in log entries 8 and 17 and, for the fire count written while the insertion walks, 19. -/
def Obligations.TriggeredSlotStarts : Prop :=
  ∀ (s : State) (early : Nat) (rec : EdgeRecord) (n : SlotNo) (rest : List SlotNo) (r : Reservation) (line : LineNo)
    (edge : TriggerEdge) (delay : Word) (period : Option Word) (repeatLimit : Half) (restart rewait : Bool),
    Applying s rec n rest r → r.mode = .triggered line edge delay period repeatLimit restart rewait →
    let started : State :=
      entered ((dequeued s n).setHeld n { r with fireCount := 0, run := .waiting }) (edgeEntry rec n delay none)
        { r with fireCount := 0 } (finished early rest)
    let isMatch : Bool := match edge, rec.direction with
      | .both, _ => true
      | .rise, .rise => true
      | .fall, .fall => true
      | _, _ => false
    exec (.edgeApplication early) s = .next
      (if rec.kind = .edge ∧ isMatch then
        match r.run with
        | .waiting => started
        | .armed _ _ => if restart then started else finished early rest s
        | _ => finished early rest s
      else finished early rest s)

/-- R55, R56 and R57: a start record opens a window of a WAITING slot; an end record closes that of an ARMED or LAPSED slot, with
WINDOW_SHORT or WINDOW_END to owner and watchers when the report set has it, and with equal edges and rewait YES opens the next window
at once; any other meeting changes nothing but the turn.
The model's choices in it are in log entries 8 and 17. -/
def Obligations.WindowSlotMeasures : Prop :=
  ∀ (s : State) (early : Nat) (rec : EdgeRecord) (n : SlotNo) (rest : List SlotNo) (r : Reservation) (line : LineNo)
    (startEdge endEdge : Direction) (limit : Word) (report : ReportSet) (rewait : Bool),
    Applying s rec n rest r → r.mode = .window line startEdge endEdge limit report rewait →
    r.watchers[r.owner] = false → r.run.suits r.mode = true →
    let open_ (t : State) : State := entered t (edgeEntry rec n limit (some rec.timestamp)) r (finished early rest)
    let notice (kind : NoticeKind) (start : TimeCount) : Notice :=
      { plainNotice s kind n r rec.timestamp with
        ref := some start,
        value := some (BitVec.ofNat 32 (min (rec.timestamp.toNat - start.toNat) (2 ^ 32 - 1))),
        count := some r.fireCount, final := !rewait }
    let told (wanted : Bool) (kind : NoticeKind) (start : TimeCount) (t : State) : State :=
      if wanted then copies t (hears r) (copyFor r (notice kind start)) else t
    let after : Run := if rewait then .waiting else .idle
    exec (.edgeApplication early) s = .next
      (if rec.kind = .level then finished early rest s
      else match r.run with
        | .waiting => if rec.direction = startEdge then open_ s else finished early rest s
        | .armed _ (some start) =>
          if rec.direction = endEdge then
            let t := told report.short .windowShort start ((dequeued s n).setHeld n { r with run := after })
            if startEdge = endEdge ∧ rewait then open_ t else finished early rest t
          else finished early rest s
        | .lapsed start =>
          if rec.direction = endEdge then
            if startEdge = endEdge ∧ rewait then open_ (told report.ends .windowEnd start s)
            else finished early rest (told report.ends .windowEnd start (s.setHeld n { r with run := after }))
          else finished early rest s
        | _ => finished early rest s)

/-! ## Dispatch -/

/-- R32, R65, R68 to R70, R72 to R74 and R77: the idle Dispatch Unit takes the due head, whose slot becomes FIRING; the firing record holds the
lateness, the periods passed and counted, the missed periods, the new fire count, FINAL and the aligned next deadline. The notice
is due to the owner and to each watcher and the output action is due; the firing is carried on from there as far as `upTo` says.
The model's choices in it are in log entry 6. -/
def Obligations.TakeHeadFiresSlot : Prop :=
  ∀ (s : State) (upTo : FiringStage) (e : Entry) (more : List Entry) (r : Reservation) (deadline : TimeCount)
    (start : Option TimeCount),
    s.rstn = false → s.firing = none → s.insertion = none → s.queue = e :: more →
    e.deadline.toNat ≤ s.time.toNat → s.held e.slot = some r → r.run = .armed deadline start → r.mode.inRange = true →
    ∃ f : FiringRecord,
      f.slot = e.slot ∧ f.takeTime = s.time ∧ f.deadline = e.deadline ∧
      f.late.toNat = s.time.toNat - e.deadline.toNat ∧
      (r.mode.period = none → f.periodsPassed = 1 ∧ f.nextDeadline = none) ∧
      (∀ p ∈ r.mode.period,
        1 ≤ f.periodsPassed ∧ s.time.toNat < e.deadline.toNat + f.periodsPassed * p.toNat ∧
        (∀ k, 1 ≤ k → s.time.toNat < e.deadline.toNat + k * p.toNat → f.periodsPassed ≤ k) ∧
        f.nextDeadline = if f.final then none
          else some (BitVec.ofNat 64 (min (e.deadline.toNat + f.periodsPassed * p.toNat) (2 ^ 64 - 1)))) ∧
      f.periodsCounted = (if r.mode.repeatLimit = 0 then f.periodsPassed
        else min f.periodsPassed (r.mode.repeatLimit - r.fireCount.toNat)) ∧
      f.missed.toNat = min (f.periodsCounted - 1) 65535 ∧
      f.fireCount.toNat = min (r.fireCount.toNat + f.periodsCounted) 65535 ∧
      (f.final = true ↔ r.mode = .oneShot ∨ (r.mode.isWindow = false ∧
        (r.mode.period = none ∨ (r.mode.repeatLimit ≠ 0 ∧ r.mode.repeatLimit ≤ f.fireCount.toNat)))) ∧
      (f.noticeKind = match r.mode with
        | .window _ _ _ _ report _ => if report.long then some .windowLong else none
        | _ => some .expired) ∧
      (∀ q : PortNo, f.copiesDue[q] = (f.noticeKind.isSome && hears r q)) ∧ f.actionDue = r.action.isSome ∧
      exec (.takeHead upTo) s = .next
        (carried
          (State.setHeld { s with queue := more, firing := some f } e.slot { r with run := .firing e.deadline start })
          f r upTo)

/-- R59 to R62, R72 to R74, R76 and R77: SETTLING carries the firing on as far as `upTo` says, and at the last through its settling, which
writes the new fire count and settles the slot by mode: a run that continues is inserted at the next deadline and its slot stays
FIRING until then; any other leaves FIRING at once, and with that the unit is IDLE and a Line Monitor that was HOLDING goes on. While
an insertion is in flight nothing is settled.
The model's choices in it are in log entries 6 and 8. -/
def Obligations.SettlingSettlesByMode : Prop :=
  ∀ (s : State) (f : FiringRecord) (r : Reservation), s.rstn = false → s.firing = some f → s.held f.slot = some r →
    (∀ stage, exec (.settling (some stage)) s = .next (carried s f r stage)) ∧
    (s.insertion ≠ none → exec (.settling none) s = .next s) ∧
    (∀ (next deadline : TimeCount) (start : Option TimeCount), s.insertion = none →
      r.run = .firing deadline start → r.run.suits r.mode = true →
      (f.final = false → r.mode.period ≠ none → f.nextDeadline = some next) →
      (r.mode.period = none → r.mode.isWindow = false → f.final = true) →
      let done : State := acted s f r
      let counted : Reservation := { r with fireCount := f.fireCount }
      let idle (t : State) : State :=
        { t with
          firing := none
          monitor := match s.monitor with
            | .holding rest => .applying rest true
            | m => m }
      let leave (run : Run) : State := idle (done.setHeld f.slot { counted with run })
      let again : State :=
        entered (done.setHeld f.slot counted)
          { slot := f.slot, deadline := next, windowStart := none, client := .dispatch } counted idle
      exec (.settling none) s = .next
        (match r.mode with
        | .oneShot => leave .idle
        | .periodic _ _ => if f.final then leave .idle else again
        | .gated line active period _ =>
          if f.final then leave .idle
          else if (s.input line).processed = active then again
          else leave (.paused (period.getD 0))
        | .triggered _ _ _ _ _ _ rewait =>
          if f.final then leave (if rewait then .waiting else .idle) else again
        | .window _ _ _ _ _ _ => leave (.lapsed (start.getD 0))))

/-- R25, R28 and R29: a completing insertion stands behind every entry the walk passed and before the rest, its slot is ARMED at its
deadline with the window start given, and the operation that contains it ends: an ARM's request, an edge application, or a
firing. -/
def Obligations.InsertCompletionPlacesEntry : Prop :=
  ∀ (s : State) (early : Nat) (i : Insertion) (r : Reservation), s.rstn = false → s.insertion = some i → s.held i.slot = some r →
    ∃ passed behind, s.queue = passed ++ behind ∧ (∀ e ∈ passed, e.deadline.toNat ≤ i.deadline.toNat) ∧
      (∀ e ∈ behind.head?, i.deadline.toNat < e.deadline.toNat) ∧
      let placed : State :=
        State.setHeld { s with queue := passed ++ { slot := i.slot, deadline := i.deadline } :: behind, insertion := none }
          i.slot { r with run := .armed i.deadline i.windowStart }
      (∀ p results frame, i.client = .engine p results → (s.port p).request = .executing frame →
        exec (.insertCompletion early) s = .next (answered placed p frame.code .ok results)) ∧
      (∀ n rest held, i.client = .lineMonitor → s.monitor = .applying (n :: rest) held →
        exec (.insertCompletion early) s = .next (finished early rest placed)) ∧
      (i.client = .dispatch →
        exec (.insertCompletion early) s = .next
          { placed with
            firing := none
            monitor := match s.monitor with
              | .holding rest => .applying rest true
              | m => m })

/-! ## The engine and the arbiter -/

/-- R146, R149 and R151: the free engine is granted to the first candidate from the pointer upward, and the pointer moves past it; a QUEUED
request becomes EXECUTING, and one whose code is not defined is answered UNKNOWN. With the engine at work or without a candidate there
is no grant.
The model's choices in it are in log entry 5. -/
def Obligations.ArbiterGrantsInTurn : Prop :=
  ∀ (s : State) (pause : Option Nat), s.rstn = false →
    let candidate (q : PortNo) : Prop := (s.port q).teardownPending = true ∨ ∃ f, (s.port q).request = .queued f
    (∀ (k : PortNo) (f : Frame), s.engine = .free → (∀ j, j < k → ¬candidate (s.pointer + j)) →
      (s.port (s.pointer + k)).request = .queued f →
      let p := s.pointer + k
      let granted : State :=
        { s with
          engine := .granted p, pointer := p + 1, ports := s.ports.set p { s.port p with request := .executing f } }
      exec (.portArbiterGrant pause) s = .next
        (if ∃ c ∈ Req.all, c.code = f.code then granted else answered granted p f.code .unknown [])) ∧
    (s.engine ≠ .free ∨ (∀ q, ¬candidate q) → exec (.portArbiterGrant pause) s = .next s)

/-- R6, R112 and R148: a waiting operation is taken as if it had just arrived: the engine's second stage does what the request's own row
does on the same state; the Line Monitor's does what an edge application does, which at a FIRING slot makes it HOLD, and which
changes nothing while an insertion is in flight.
The model's choices in it are in log entry 9. -/
def Obligations.SecondStageActsAsArrivingNow : Prop :=
  ∀ (s : State) (pause : Option Nat) (early : Nat),
    (∀ (p : PortNo) (c : Req) (params : List Byte) (n : SlotNo) (r : Reservation) (op : SlotOp) (on : WaitFor),
      c ∈ slotRequests → s.engine = .waiting p op on → Granted { s with engine := .granted p } p c params →
      offered c params n = some op → byteAt params 0 = n.val → s.held n = some r → noRight c p r = none →
      ∃ t, exec (.secondStageOperation .engine pause early) s = .next t ∧
        exec (row c) { s with engine := .granted p } = .next t) ∧
    (∀ (p : PortNo) (on : WaitFor), s.engine = .waiting p .reserve on →
      Granted { s with engine := .granted p } p .reserve [] → (s.quota p).owned < (s.quota p).quota →
      ∃ t, exec (.secondStageOperation .engine pause early) s = .next t ∧
        exec .reserve { s with engine := .granted p } = .next t) ∧
    (∀ rest, s.monitor = .applying rest true →
      ∃ t, exec (.secondStageOperation .lineMonitor pause early) s = .next t ∧ exec (.edgeApplication early) s = .next t) ∧
    (∀ (rec : EdgeRecord) (n : SlotNo) (rest : List SlotNo) (held : Bool) (r : Reservation), s.rstn = false →
      s.monitor = .applying (n :: rest) held → s.fifo.head? = some rec → s.held n = some r →
      (r.run.isFiring = true → exec (.edgeApplication early) s = .next { s with monitor := .holding (n :: rest) }) ∧
      (r.run.isFiring = false → s.insertion ≠ none → exec (.edgeApplication early) s = .next s))

/-! ## Notices and attention -/

/-- R126, R127 and R135: outside OPEN an arrival is discarded; with OVERFLOW present it is counted into it, saturating, with the count as its
ref; with 31 notices it raises OVERFLOW with the next seq; else it is stored with the next seq. A notice that enters an empty list
restarts the holdoff counter. -/
def Obligations.ArrivalsStoredCountedOrDiscarded : Prop :=
  ∀ (now : TimeCount) (n : Notice) (x : HostPort),
    let stored (m : Notice) : HostPort :=
      HostPort.drive
        { x with
          notices := x.notices ++ [{ seq := x.nextSeq, notice := m }], nextSeq := x.nextSeq + 1,
          holdoffCounter := if x.notices = [] then 0 else x.holdoffCounter }
    let overflow : Notice :=
      { kind := .overflow, slot := none, generation := none, tag := none, eventTime := now, ref := some now,
        value := some 1, count := none, missed := none, late := false, final := false, watched := false, big := false }
    x.arrive now n =
      if x.session ≠ .opened then x
      else if ∃ e ∈ x.notices, e.notice.kind = .overflow then
        { x with
          notices := x.notices.map fun e =>
            if e.notice.kind = .overflow then
              { e with
                notice := { e.notice with
                  ref := some now
                  value := some (BitVec.ofNat 32 (min ((e.notice.value.getD 0).toNat + 1) 65535)) } }
            else e }
      else if x.notices.length < 31 then stored n
      else stored overflow

/-- R134 and R136: SET_ATTENTION checks its ranges and sets threshold and holdoff, and ATTNn is evaluated against them at once; when the
holdoff has expired, HOLDOFF_EXPIRED asserts ATTNn of an OPEN port with a notice.
The model's choices in it are in log entry 13. -/
def Obligations.AttentionSettingsAndHoldoff : Prop :=
  ∀ (s : State) (p : PortNo),
    (∀ (threshold : Byte) (holdoff : Half), Granted s p .setAttention (threshold :: bytesBE 2 holdoff.toNat) →
      exec .setAttention s = .next
        (if threshold.toNat < 1 ∨ 32 < threshold.toNat then completed s p .setAttention .badParam []
        else
          let set : HostPort := { s.port p with threshold := threshold.toNat, holdoff }
          completed (s.setPort p { set with attn := set.attention }) p .setAttention .ok
            (threshold :: bytesBE 2 holdoff.toNat))) ∧
    (s.rstn = false → (s.port p).session = .opened → (s.port p).notices ≠ [] → 0 < (s.port p).holdoff.toNat →
      (s.port p).holdoff.toNat ≤ (s.port p).holdoffCounter.toNat →
      exec (.holdoffExpired p) s = .next (s.setPort p { s.port p with attn := true }))

/-- R131 and R173: PEEK answers DONE with the 36-byte record of the notice at the offset, or EMPTY with 36 bytes of 0, and changes no queue
state. -/
def Obligations.PeekCopiesNotice : Prop :=
  ∀ (s : State) (p : PortNo) (offset : Byte), Opened s p →
    (∀ e, (s.port p).notices[offset.toNat]? = some e →
      ∃ record, exec (.peek p offset) s = .next (s.setPort p (replies (s.port p) (0x01 :: record))) ∧
        record.length = 36 ∧ fieldBE record 0 2 = e.seq.toNat ∧ fieldBE record 2 1 = e.notice.kind.code.toNat ∧
        fieldBE record 3 1 = ((e.notice.slot.map Fin.val).getD 0) ∧
        fieldBE record 4 2 = (e.notice.generation.getD 0).toNat ∧
        (∀ k, (fieldBE record 6 1).testBit k =
          [e.notice.late, e.notice.final, e.notice.watched, e.notice.big].getD k false) ∧
        fieldBE record 7 1 = 0 ∧ fieldBE record 8 4 = (e.notice.tag.getD 0).toNat ∧
        fieldBE record 12 8 = e.notice.eventTime.toNat ∧ fieldBE record 20 8 = (e.notice.ref.getD 0).toNat ∧
        fieldBE record 28 4 = (e.notice.value.getD 0).toNat ∧ fieldBE record 32 2 = (e.notice.count.getD 0).toNat ∧
        fieldBE record 34 2 = (e.notice.missed.getD 0).toNat) ∧
    ((s.port p).notices[offset.toNat]? = none →
      exec (.peek p offset) s = .next (s.setPort p (replies (s.port p) (0x08 :: List.replicate 36 0))))

/-- R132, R135, R137 and R170: ACK of the seq of a notice present, its high byte sent first, removes that notice and every older one and
restarts the holdoff counter, and ATTNn follows; any other seq is STALE and removes nothing. -/
def Obligations.AckRemovesThroughSeq : Prop :=
  ∀ (s : State) (p : PortNo) (seq : Half), Opened s p →
    let sent : Byte × Byte := (BitVec.ofNat 8 (seq.toNat / 256), BitVec.ofNat 8 seq.toNat)
    (∀ older e newer, (s.port p).notices = older ++ e :: newer → e.seq = seq → (∀ o ∈ older, o.seq ≠ seq) →
      let acked : HostPort := { s.port p with notices := newer, holdoffCounter := 0 }
      exec (.ack p sent) s = .next
        (s.setPort p (replies { acked with attn := acked.attention } [0x01]))) ∧
    ((∀ e ∈ (s.port p).notices, e.seq ≠ seq) →
      exec (.ack p sent) s = .next (s.setPort p (replies (s.port p) [0x09])))

/-! ## Links -/

/-- R142, R157 and R158: a SUBMIT of a whole frame, further bytes ignored, is answered CLOSING while the session is CLOSING or a teardown is
pending, ACCEPTED in IDLE, which makes the request QUEUED, BUSY in QUEUED and EXECUTING, and UNFETCHED in DONE. A SUBMIT whose bytes
stop short of its frame takes nothing and answers zeros.
The model's choices in it are in log entry 15. -/
def Obligations.SubmitTakesOrRefusesFrame : Prop :=
  ∀ (s : State) (p : PortNo), Opened s p →
    (∀ (code : Byte) (params extra : List Byte), params.length < 256 →
      exec (.submit p (code :: BitVec.ofNat 8 params.length :: params ++ extra)) s = .next
        (s.setPort p
          (if (s.port p).session = .closing ∨ (s.port p).teardownPending = true then replies (s.port p) [0x05]
          else match (s.port p).request with
            | .idle => { replies (s.port p) [0x02] with request := .queued { code, params } }
            | .queued _ => replies (s.port p) [0x03]
            | .executing _ => replies (s.port p) [0x03]
            | .done _ => replies (s.port p) [0x04]))) ∧
    (∀ bytes : List Byte, bytes.length < 2 + (bytes.getD 1 0).toNat →
      exec (.submit p bytes) s = .next (s.setPort p (replies (s.port p) [])))

/-- R143, R157 and R172: FETCH answers DONE with the held response, NOT_READY or NONE, and of itself discards nothing; FETCH_END, with the
reply of a DONE answer clocked out whole, makes the request state IDLE.
The model's choices in it are in log entry 15. -/
def Obligations.FetchReturnsHeldResponse : Prop :=
  ∀ (s : State) (p : PortNo),
    (Opened s p →
      exec (.fetch p) s = .next
        (s.setPort p
          (match (s.port p).request with
          | .done r =>
            { s.port p with
              link := .selected (.fetching
                ([0x01, r.code, r.status.code, BitVec.ofNat 8 r.results.length] ++ r.results)) }
          | .queued _ => replies (s.port p) [0x06]
          | .executing _ => replies (s.port p) [0x06]
          | .idle => replies (s.port p) [0x07]))) ∧
    (∀ reply, s.rstn = false → (s.port p).link = .selected (.fetching reply) →
      exec (.fetchEnd p) s = .next (s.setPort p { replies (s.port p) reply with request := .idle }))

/-- R100, R159 and R174: TIME latches the time count, SLEWING and the divisor and answers from the latch; PORTSTAT copies the port's status
record; neither changes anything else. -/
def Obligations.TimeAndPortstatReport : Prop :=
  ∀ (s : State) (p : PortNo), Opened s p →
    exec (.time p) s = .next
      (s.setPort p
        { replies (s.port p)
            (0x01 :: bytesBE 8 s.time.toNat ++ [if s.slew = none then 0 else 1] ++ bytesBE 2 s.divisor) with
          snapshot := { time := s.time, slewing := decide (s.slew ≠ none), divisor := s.divisor } }) ∧
    ∃ flags : Byte,
      (∀ k, flags.getLsbD k = [(s.port p).teardownPending,
        decide (∃ e ∈ (s.port p).notices, e.notice.kind = .overflow), decide (s.authority = some p)].getD k false) ∧
      exec (.portstat p) s = .next
        (s.setPort p
          (replies (s.port p)
            [0x01, (s.port p).session.code, (s.port p).sessionNumber, (s.port p).request.code, flags,
              BitVec.ofNat 8 (s.port p).notices.length, BitVec.ofNat 8 (s.quota p).quota,
              BitVec.ofNat 8 (s.quota p).owned]))

/-- R155, R156, R157 and R170: an assertion of chip select opens a transaction on an IDLE link; the bytes that the host then sends spell the
transaction by its selector, once they reach its take point; a selector that names none opens one that does nothing; a negation
ends the transaction, and a FETCH cut short keeps its response.
The model's choices in it are in log entry 15. -/
def Obligations.ChipSelectOpensAndEnds : Prop :=
  ∀ (s : State) (p : PortNo),
    (s.rstn = false → (s.port p).link = .idle → (s.port p).chipSelect = false →
      exec (.chipSelectAssertion p) s = .next
        (s.setPort p { s.port p with chipSelect := true, link := .selected .opened })) ∧
    ((s.port p).link = .inert ∨ (s.port p).chipSelect = true →
      exec (.chipSelectAssertion p) s = .next (s.setPort p { s.port p with chipSelect := true })) ∧
    (∀ rest : List Byte,
      (∀ (code : Byte) (params : List Byte), params.length < 256 →
        decodeTransaction p (0x51 :: code :: BitVec.ofNat 8 params.length :: params ++ rest) =
          some (.submit p (code :: BitVec.ofNat 8 params.length :: params))) ∧
      (rest.length < 2 + (rest.getD 1 0).toNat → decodeTransaction p (0x51 :: rest) = none) ∧
      decodeTransaction p (0x52 :: rest) = some (.fetch p) ∧
      (∀ offset, decodeTransaction p (0x53 :: offset :: rest) = some (.peek p offset)) ∧
      (∀ high low, decodeTransaction p (0x54 :: high :: low :: rest) = some (.ack p (high, low))) ∧
      (rest.length < 1 → decodeTransaction p (0x53 :: rest) = none) ∧
      (rest.length < 2 → decodeTransaction p (0x54 :: rest) = none) ∧
      decodeTransaction p (0x55 :: rest) = some (.time p) ∧
      decodeTransaction p (0x56 :: rest) = some (.portstat p)) ∧
    (∀ selector : Byte, selector.toNat < 0x51 ∨ 0x56 < selector.toNat →
      (∀ rest, decodeTransaction p (selector :: rest) = some (.doNothingTransaction p selector)) ∧
      (Opened s p → exec (.doNothingTransaction p selector) s = .next (s.setPort p (replies (s.port p) [])))) ∧
    (exec (.chipSelectNegation p) s = .next
      (s.setPort p
        { s.port p with
          chipSelect := false, link := if (s.port p).link = .inert then .inert else .idle }))

/-! ## Resets -/

/-- R147, R155, R166 and R167: an assertion of PRSTn makes the link INERT; it marks an EXECUTING request, and otherwise discards a QUEUED
request or a DONE response and on an OPEN port makes a teardown pending; a CLOSING port's teardown runs on. A release makes the link
IDLE and changes nothing else. -/
def Obligations.PortResetAndRelease : Prop :=
  ∀ (s : State) (p : PortNo), s.rstn = false →
    ((s.port p).prstn = false →
      exec (.prstnAssert p) s = .next
        (s.setPort p
          (let inert : HostPort := { s.port p with prstn := true, link := .inert }
          match (s.port p).request, (s.port p).session with
          | .executing _, _ => { inert with resetMark := true }
          | _, .opened => { inert with request := .idle, teardownPending := true }
          | _, .detached => { inert with request := .idle }
          | _, .closing => inert))) ∧
    ((s.port p).prstn = true →
      exec (.prstnRelease p) s = .next (s.setPort p { s.port p with prstn := false, link := .idle }))

/-- R7, R23, R37, R63, R82, R101, R122, R140, R154, R168 and R169: device reset. An assertion of RSTn leaves every block at its reset values with
every link INERT; its release leaves them there, with the quotas of the straps, and every link IDLE whose PRSTn is negated. While RSTn
is asserted PRSTn and chip select are remembered as levels alone, REFCLK edges are sampled, and no other command changes anything.
The model's choices in it are in log entry 14. -/
def Obligations.DeviceResetValues : Prop :=
  ∀ (s : State) (straps : BitVec 2),
    let resetTo (t : State) (rstn : Bool) : Prop :=
      t.rstn = rstn ∧ t.time = 0 ∧ t.divider = 0 ∧ t.tickDue = false ∧ t.divisor = 1 ∧ t.pendingDivisor = none ∧
      t.authority = none ∧ t.slew = none ∧ (∀ n, t.slot n = { generation := 0, held := none }) ∧ (∀ q, (t.quota q).owned = 0) ∧
      t.queue = [] ∧ t.insertion = none ∧ t.firing = none ∧ t.fifo = [] ∧ t.monitor = .ready ∧
      (∀ l, t.input l =
        { stage1 := (s.input l).stage1, stage2 := (s.input l).stage2, synchronized := (s.input l).stage2,
          processed := (s.input l).stage2, bindings := [], lost := 0, owed := false }) ∧
      (∀ l, t.output l = { level := .low, claim := none, idleLevel := .low }) ∧
      t.engine = .free ∧ t.pointer = 0 ∧
      (∀ q, t.port q =
        { prstn := (s.port q).prstn, chipSelect := (s.port q).chipSelect,
          link := if rstn ∨ (s.port q).prstn then .inert else .idle, session := .detached, sessionNumber := 0,
          request := .idle, teardownPending := false, resetMark := false, notices := [], nextSeq := 0, threshold := 1,
          holdoff := 0, holdoffCounter := 0, attn := false,
          snapshot := { time := 0, slewing := false, divisor := 0 } })
    (s.rstn = false → ∃ t, exec .rstnAssert s = .next t ∧ resetTo t true) ∧
    (s.rstn = true → ∃ t, exec (.rstnRelease straps) s = .next t ∧ resetTo t false ∧ t.straps = straps ∧
      (List.finRange 4).map (fun q => (t.quota q).quota) = match straps.toNat with
        | 0 => [16, 16, 16, 16]
        | 1 => [32, 16, 8, 8]
        | 2 => [24, 24, 8, 8]
        | _ => [64, 0, 0, 0]) ∧
    (s.rstn = true →
      (∀ c : Instr,
        (∀ p, c ≠ .prstnAssert p ∧ c ≠ .prstnRelease p ∧ c ≠ .chipSelectAssertion p ∧ c ≠ .chipSelectNegation p) →
        (∀ pins tickLater, c ≠ .refclkRisingEdge pins tickLater) → (∀ q, c ≠ .rstnRelease q) → exec c s = .next s) ∧
      ∀ p,
        exec (.prstnAssert p) s = .next (s.setPort p { s.port p with prstn := true }) ∧
        exec (.prstnRelease p) s = .next (s.setPort p { s.port p with prstn := false }) ∧
        exec (.chipSelectAssertion p) s = .next (s.setPort p { s.port p with chipSelect := true }))

/-! ## Invariants -/

/-- The laws of Safety.lean hold of the machine after reset.
The model's choices in it are in log entries 3 and 4. -/
def Obligations.ResetMeetsEveryLaw : Prop :=
  State.reset.AttentionLaw ∧ State.reset.NoticeLaw ∧ State.reset.SortedLaw ∧ State.reset.TimerLaw ∧ State.reset.QuotaLaw ∧
  State.reset.WatcherLaw ∧ State.reset.OutputLaw ∧ State.reset.BindingLaw ∧ State.reset.DividerLaw ∧
  State.reset.SlewLaw ∧ State.reset.RunLaw ∧ State.reset.EdgeLaw ∧ State.reset.DetachedLaw ∧ State.reset.EngineLaw ∧
  State.reset.LinkLaw

/-- R137: every step keeps ATTNn of every port at its terms. -/
def Obligations.AttentionFollowsItsTerms : Prop :=
  ∀ s s' : State, s.AttentionLaw → step s = .next s' → s'.AttentionLaw

/-- R130 and R135: every step keeps the shape of every notice queue: its bounds, OVERFLOW newest, consecutive seqs, empty outside OPEN. -/
def Obligations.NoticeQueuesKeepShape : Prop :=
  ∀ s s' : State, s.NoticeLaw → step s = .next s' → s'.NoticeLaw

/-- R24, R25, R26, R29 and R66: every step keeps the Deadline Queue in nondecreasing order of deadline, and the queue and the slots
together: a slot has one entry exactly while it is ARMED, at its deadline, and at most one slot is FIRING, the one in the firing record. -/
def Obligations.QueueAndSlotsAgree : Prop :=
  ∀ s s' : State, step s = .next s' → (s.SortedLaw → s'.SortedLaw) ∧ (s.TimerLaw → s'.TimerLaw)

/-- R7 and R8: every step keeps the quota laws: the quotas sum to 64; a port's owned is the number of its slots and at most its quota; the
FREE slots number the sum over the ports of quota minus owned. -/
def Obligations.QuotaLawsKept : Prop :=
  ∀ s s' : State, s.QuotaLaw → step s = .next s' → s'.QuotaLaw

/-- R116 and R121: every step keeps output actions on lines that the slot's owner claims, and FREE lines at their idle levels. -/
def Obligations.OutputActionsStayClaimed : Prop :=
  ∀ s s' : State, s.OutputLaw → step s = .next s' → s'.OutputLaw

/-- R39, R115 and R121: every step keeps the binding lists: at most 8 slots, each once, exactly those in a line mode on the line. -/
def Obligations.BindingListsMatchModes : Prop :=
  ∀ s s' : State, s.BindingLaw → step s = .next s' → s'.BindingLaw

/-- R85, R87, R95 and R96: every step keeps the divider below the divisor, with a tick that is due at the division's end, and a slew's remaining amount
at or below its remaining ticks. -/
def Obligations.DividerAndSlewKept : Prop :=
  ∀ s s' : State, step s = .next s' → (s.DividerLaw → s'.DividerLaw) ∧ (s.SlewLaw → s'.SlewLaw)

/-- R2, R38 and R70: every step keeps each slot's mode in range, its state suited to its mode, and the fire count of a run below its limit,
where the Deadline Queue and the slots agree (R24, R26, which QueueAndSlotsAgree says every step keeps). -/
def Obligations.SlotsSuitTheirModes : Prop :=
  ∀ s s' : State, s.RunLaw → s.TimerLaw → step s = .next s' → s'.RunLaw

/-- R106, R111 and R114: every step keeps the FIFO within 16 records, and a line that is not owed at the level its last record gives, so that
without a record its processed level is its synchronized level. -/
def Obligations.LineLevelsAgree : Prop :=
  ∀ s s' : State, s.EdgeLaw → step s = .next s' → s'.EdgeLaw

/-- R22 and R160: every step keeps the owner out of a watcher set and the set of a PRIVATE slot empty, and a DETACHED port without slots,
watchings, lines and authority. -/
def Obligations.WatchersAndDetachedPorts : Prop :=
  ∀ s s' : State, step s = .next s' → (s.WatcherLaw → s'.WatcherLaw) ∧ (s.DetachedLaw → s'.DetachedLaw)

/-- R141, R145, R147 and R155: every step keeps a port's request EXECUTING exactly while the engine has it in hand, where a port in teardown is
CLOSING (R164, which NoticeQueuesKeepShape says every step keeps), and a link INERT exactly while PRSTn or RSTn is asserted. -/
def Obligations.EngineAndLinksAgree : Prop :=
  ∀ s s' : State, step s = .next s' → (s.EngineLaw → s.ClosingLaw → s'.EngineLaw) ∧ (s.LinkLaw → s'.LinkLaw)

/-- R83: the time count never decreases, except that device reset returns it to 0. -/
def Obligations.TimeNeverDecreases : Prop :=
  ∀ s s' : State, step s = .next s' →
    s.time.toNat ≤ s'.time.toNat ∨
    (s'.time = 0 ∧ (s.pending.head? = some .rstnAssert ∨ ∃ straps, s.pending.head? = some (.rstnRelease straps)))

/-- R3: a slot's generation rises by 1 at a RESERVE or an ARM, taken at once or after a wait, returns to 0 at device reset, and is changed by
nothing else. -/
def Obligations.GenerationChangesOnlyAtReserveAndArm : Prop :=
  ∀ (s s' : State) (n : SlotNo), step s = .next s' →
    (s'.slot n).generation = (s.slot n).generation ∨
    ((s'.slot n).generation = (s.slot n).generation + 1 ∧
      (s.pending.head? = some .reserve ∨ s.pending.head? = some .arm ∨
        ∃ pause early p on, s.pending.head? = some (.secondStageOperation .engine pause early) ∧
          (s.engine = .waiting p .reserve on ∨ ∃ form, s.engine = .waiting p (.arm n form) on))) ∨
    ((s'.slot n).generation = 0 ∧
      (s.pending.head? = some .rstnAssert ∨ ∃ straps, s.pending.head? = some (.rstnRelease straps)))
end

