-- ==== Sys2Proof/Laws/State.lean ====
section
/-! SUPPORT. What each update of State leaves: one lemma per field per update, and what each accessor reads after
each update. No later proof unfolds an update. -/

namespace Sys2Proof.Machine

variable (s : State)

/-! ## setPort -/

@[simp] theorem State.setPort_pending (p : PortNo) (x : HostPort) : (s.setPort p x).pending = s.pending := rfl
@[simp] theorem State.setPort_rstn (p : PortNo) (x : HostPort) : (s.setPort p x).rstn = s.rstn := rfl
@[simp] theorem State.setPort_straps (p : PortNo) (x : HostPort) : (s.setPort p x).straps = s.straps := rfl
@[simp] theorem State.setPort_time (p : PortNo) (x : HostPort) : (s.setPort p x).time = s.time := rfl
@[simp] theorem State.setPort_divider (p : PortNo) (x : HostPort) : (s.setPort p x).divider = s.divider := rfl
@[simp] theorem State.setPort_tickDue (p : PortNo) (x : HostPort) : (s.setPort p x).tickDue = s.tickDue := rfl
@[simp] theorem State.setPort_divisor (p : PortNo) (x : HostPort) : (s.setPort p x).divisor = s.divisor := rfl
@[simp] theorem State.setPort_pendingDivisor (p : PortNo) (x : HostPort) : (s.setPort p x).pendingDivisor = s.pendingDivisor := rfl
@[simp] theorem State.setPort_authority (p : PortNo) (x : HostPort) : (s.setPort p x).authority = s.authority := rfl
@[simp] theorem State.setPort_slew (p : PortNo) (x : HostPort) : (s.setPort p x).slew = s.slew := rfl
@[simp] theorem State.setPort_slots (p : PortNo) (x : HostPort) : (s.setPort p x).slots = s.slots := rfl
@[simp] theorem State.setPort_quotas (p : PortNo) (x : HostPort) : (s.setPort p x).quotas = s.quotas := rfl
@[simp] theorem State.setPort_queue (p : PortNo) (x : HostPort) : (s.setPort p x).queue = s.queue := rfl
@[simp] theorem State.setPort_insertion (p : PortNo) (x : HostPort) : (s.setPort p x).insertion = s.insertion := rfl
@[simp] theorem State.setPort_firing (p : PortNo) (x : HostPort) : (s.setPort p x).firing = s.firing := rfl
@[simp] theorem State.setPort_inputs (p : PortNo) (x : HostPort) : (s.setPort p x).inputs = s.inputs := rfl
@[simp] theorem State.setPort_fifo (p : PortNo) (x : HostPort) : (s.setPort p x).fifo = s.fifo := rfl
@[simp] theorem State.setPort_monitor (p : PortNo) (x : HostPort) : (s.setPort p x).monitor = s.monitor := rfl
@[simp] theorem State.setPort_outputs (p : PortNo) (x : HostPort) : (s.setPort p x).outputs = s.outputs := rfl
@[simp] theorem State.setPort_engine (p : PortNo) (x : HostPort) : (s.setPort p x).engine = s.engine := rfl
@[simp] theorem State.setPort_pointer (p : PortNo) (x : HostPort) : (s.setPort p x).pointer = s.pointer := rfl
@[simp] theorem State.setPort_ports (p : PortNo) (x : HostPort) : (s.setPort p x).ports = s.ports.set p x := rfl

/-! ## setSlot -/

@[simp] theorem State.setSlot_pending (n : SlotNo) (x : Slot) : (s.setSlot n x).pending = s.pending := rfl
@[simp] theorem State.setSlot_rstn (n : SlotNo) (x : Slot) : (s.setSlot n x).rstn = s.rstn := rfl
@[simp] theorem State.setSlot_straps (n : SlotNo) (x : Slot) : (s.setSlot n x).straps = s.straps := rfl
@[simp] theorem State.setSlot_time (n : SlotNo) (x : Slot) : (s.setSlot n x).time = s.time := rfl
@[simp] theorem State.setSlot_divider (n : SlotNo) (x : Slot) : (s.setSlot n x).divider = s.divider := rfl
@[simp] theorem State.setSlot_tickDue (n : SlotNo) (x : Slot) : (s.setSlot n x).tickDue = s.tickDue := rfl
@[simp] theorem State.setSlot_divisor (n : SlotNo) (x : Slot) : (s.setSlot n x).divisor = s.divisor := rfl
@[simp] theorem State.setSlot_pendingDivisor (n : SlotNo) (x : Slot) : (s.setSlot n x).pendingDivisor = s.pendingDivisor := rfl
@[simp] theorem State.setSlot_authority (n : SlotNo) (x : Slot) : (s.setSlot n x).authority = s.authority := rfl
@[simp] theorem State.setSlot_slew (n : SlotNo) (x : Slot) : (s.setSlot n x).slew = s.slew := rfl
@[simp] theorem State.setSlot_slots (n : SlotNo) (x : Slot) : (s.setSlot n x).slots = s.slots.set n x := rfl
@[simp] theorem State.setSlot_quotas (n : SlotNo) (x : Slot) : (s.setSlot n x).quotas = s.quotas := rfl
@[simp] theorem State.setSlot_queue (n : SlotNo) (x : Slot) : (s.setSlot n x).queue = s.queue := rfl
@[simp] theorem State.setSlot_insertion (n : SlotNo) (x : Slot) : (s.setSlot n x).insertion = s.insertion := rfl
@[simp] theorem State.setSlot_firing (n : SlotNo) (x : Slot) : (s.setSlot n x).firing = s.firing := rfl
@[simp] theorem State.setSlot_inputs (n : SlotNo) (x : Slot) : (s.setSlot n x).inputs = s.inputs := rfl
@[simp] theorem State.setSlot_fifo (n : SlotNo) (x : Slot) : (s.setSlot n x).fifo = s.fifo := rfl
@[simp] theorem State.setSlot_monitor (n : SlotNo) (x : Slot) : (s.setSlot n x).monitor = s.monitor := rfl
@[simp] theorem State.setSlot_outputs (n : SlotNo) (x : Slot) : (s.setSlot n x).outputs = s.outputs := rfl
@[simp] theorem State.setSlot_engine (n : SlotNo) (x : Slot) : (s.setSlot n x).engine = s.engine := rfl
@[simp] theorem State.setSlot_pointer (n : SlotNo) (x : Slot) : (s.setSlot n x).pointer = s.pointer := rfl
@[simp] theorem State.setSlot_ports (n : SlotNo) (x : Slot) : (s.setSlot n x).ports = s.ports := rfl

/-! ## setHeld -/

@[simp] theorem State.setHeld_pending (n : SlotNo) (r : Reservation) : (s.setHeld n r).pending = s.pending := rfl
@[simp] theorem State.setHeld_rstn (n : SlotNo) (r : Reservation) : (s.setHeld n r).rstn = s.rstn := rfl
@[simp] theorem State.setHeld_straps (n : SlotNo) (r : Reservation) : (s.setHeld n r).straps = s.straps := rfl
@[simp] theorem State.setHeld_time (n : SlotNo) (r : Reservation) : (s.setHeld n r).time = s.time := rfl
@[simp] theorem State.setHeld_divider (n : SlotNo) (r : Reservation) : (s.setHeld n r).divider = s.divider := rfl
@[simp] theorem State.setHeld_tickDue (n : SlotNo) (r : Reservation) : (s.setHeld n r).tickDue = s.tickDue := rfl
@[simp] theorem State.setHeld_divisor (n : SlotNo) (r : Reservation) : (s.setHeld n r).divisor = s.divisor := rfl
@[simp] theorem State.setHeld_pendingDivisor (n : SlotNo) (r : Reservation) : (s.setHeld n r).pendingDivisor = s.pendingDivisor := rfl
@[simp] theorem State.setHeld_authority (n : SlotNo) (r : Reservation) : (s.setHeld n r).authority = s.authority := rfl
@[simp] theorem State.setHeld_slew (n : SlotNo) (r : Reservation) : (s.setHeld n r).slew = s.slew := rfl
@[simp] theorem State.setHeld_slots (n : SlotNo) (r : Reservation) : (s.setHeld n r).slots = s.slots.set n { s.slot n with held := some r } := rfl
@[simp] theorem State.setHeld_quotas (n : SlotNo) (r : Reservation) : (s.setHeld n r).quotas = s.quotas := rfl
@[simp] theorem State.setHeld_queue (n : SlotNo) (r : Reservation) : (s.setHeld n r).queue = s.queue := rfl
@[simp] theorem State.setHeld_insertion (n : SlotNo) (r : Reservation) : (s.setHeld n r).insertion = s.insertion := rfl
@[simp] theorem State.setHeld_firing (n : SlotNo) (r : Reservation) : (s.setHeld n r).firing = s.firing := rfl
@[simp] theorem State.setHeld_inputs (n : SlotNo) (r : Reservation) : (s.setHeld n r).inputs = s.inputs := rfl
@[simp] theorem State.setHeld_fifo (n : SlotNo) (r : Reservation) : (s.setHeld n r).fifo = s.fifo := rfl
@[simp] theorem State.setHeld_monitor (n : SlotNo) (r : Reservation) : (s.setHeld n r).monitor = s.monitor := rfl
@[simp] theorem State.setHeld_outputs (n : SlotNo) (r : Reservation) : (s.setHeld n r).outputs = s.outputs := rfl
@[simp] theorem State.setHeld_engine (n : SlotNo) (r : Reservation) : (s.setHeld n r).engine = s.engine := rfl
@[simp] theorem State.setHeld_pointer (n : SlotNo) (r : Reservation) : (s.setHeld n r).pointer = s.pointer := rfl
@[simp] theorem State.setHeld_ports (n : SlotNo) (r : Reservation) : (s.setHeld n r).ports = s.ports := rfl

/-! ## setQuota -/

@[simp] theorem State.setQuota_pending (p : PortNo) (x : QuotaEntry) : (s.setQuota p x).pending = s.pending := rfl
@[simp] theorem State.setQuota_rstn (p : PortNo) (x : QuotaEntry) : (s.setQuota p x).rstn = s.rstn := rfl
@[simp] theorem State.setQuota_straps (p : PortNo) (x : QuotaEntry) : (s.setQuota p x).straps = s.straps := rfl
@[simp] theorem State.setQuota_time (p : PortNo) (x : QuotaEntry) : (s.setQuota p x).time = s.time := rfl
@[simp] theorem State.setQuota_divider (p : PortNo) (x : QuotaEntry) : (s.setQuota p x).divider = s.divider := rfl
@[simp] theorem State.setQuota_tickDue (p : PortNo) (x : QuotaEntry) : (s.setQuota p x).tickDue = s.tickDue := rfl
@[simp] theorem State.setQuota_divisor (p : PortNo) (x : QuotaEntry) : (s.setQuota p x).divisor = s.divisor := rfl
@[simp] theorem State.setQuota_pendingDivisor (p : PortNo) (x : QuotaEntry) : (s.setQuota p x).pendingDivisor = s.pendingDivisor := rfl
@[simp] theorem State.setQuota_authority (p : PortNo) (x : QuotaEntry) : (s.setQuota p x).authority = s.authority := rfl
@[simp] theorem State.setQuota_slew (p : PortNo) (x : QuotaEntry) : (s.setQuota p x).slew = s.slew := rfl
@[simp] theorem State.setQuota_slots (p : PortNo) (x : QuotaEntry) : (s.setQuota p x).slots = s.slots := rfl
@[simp] theorem State.setQuota_quotas (p : PortNo) (x : QuotaEntry) : (s.setQuota p x).quotas = s.quotas.set p x := rfl
@[simp] theorem State.setQuota_queue (p : PortNo) (x : QuotaEntry) : (s.setQuota p x).queue = s.queue := rfl
@[simp] theorem State.setQuota_insertion (p : PortNo) (x : QuotaEntry) : (s.setQuota p x).insertion = s.insertion := rfl
@[simp] theorem State.setQuota_firing (p : PortNo) (x : QuotaEntry) : (s.setQuota p x).firing = s.firing := rfl
@[simp] theorem State.setQuota_inputs (p : PortNo) (x : QuotaEntry) : (s.setQuota p x).inputs = s.inputs := rfl
@[simp] theorem State.setQuota_fifo (p : PortNo) (x : QuotaEntry) : (s.setQuota p x).fifo = s.fifo := rfl
@[simp] theorem State.setQuota_monitor (p : PortNo) (x : QuotaEntry) : (s.setQuota p x).monitor = s.monitor := rfl
@[simp] theorem State.setQuota_outputs (p : PortNo) (x : QuotaEntry) : (s.setQuota p x).outputs = s.outputs := rfl
@[simp] theorem State.setQuota_engine (p : PortNo) (x : QuotaEntry) : (s.setQuota p x).engine = s.engine := rfl
@[simp] theorem State.setQuota_pointer (p : PortNo) (x : QuotaEntry) : (s.setQuota p x).pointer = s.pointer := rfl
@[simp] theorem State.setQuota_ports (p : PortNo) (x : QuotaEntry) : (s.setQuota p x).ports = s.ports := rfl

/-! ## setInput -/

@[simp] theorem State.setInput_pending (l : LineNo) (x : InputLine) : (s.setInput l x).pending = s.pending := rfl
@[simp] theorem State.setInput_rstn (l : LineNo) (x : InputLine) : (s.setInput l x).rstn = s.rstn := rfl
@[simp] theorem State.setInput_straps (l : LineNo) (x : InputLine) : (s.setInput l x).straps = s.straps := rfl
@[simp] theorem State.setInput_time (l : LineNo) (x : InputLine) : (s.setInput l x).time = s.time := rfl
@[simp] theorem State.setInput_divider (l : LineNo) (x : InputLine) : (s.setInput l x).divider = s.divider := rfl
@[simp] theorem State.setInput_tickDue (l : LineNo) (x : InputLine) : (s.setInput l x).tickDue = s.tickDue := rfl
@[simp] theorem State.setInput_divisor (l : LineNo) (x : InputLine) : (s.setInput l x).divisor = s.divisor := rfl
@[simp] theorem State.setInput_pendingDivisor (l : LineNo) (x : InputLine) : (s.setInput l x).pendingDivisor = s.pendingDivisor := rfl
@[simp] theorem State.setInput_authority (l : LineNo) (x : InputLine) : (s.setInput l x).authority = s.authority := rfl
@[simp] theorem State.setInput_slew (l : LineNo) (x : InputLine) : (s.setInput l x).slew = s.slew := rfl
@[simp] theorem State.setInput_slots (l : LineNo) (x : InputLine) : (s.setInput l x).slots = s.slots := rfl
@[simp] theorem State.setInput_quotas (l : LineNo) (x : InputLine) : (s.setInput l x).quotas = s.quotas := rfl
@[simp] theorem State.setInput_queue (l : LineNo) (x : InputLine) : (s.setInput l x).queue = s.queue := rfl
@[simp] theorem State.setInput_insertion (l : LineNo) (x : InputLine) : (s.setInput l x).insertion = s.insertion := rfl
@[simp] theorem State.setInput_firing (l : LineNo) (x : InputLine) : (s.setInput l x).firing = s.firing := rfl
@[simp] theorem State.setInput_inputs (l : LineNo) (x : InputLine) : (s.setInput l x).inputs = s.inputs.set l x := rfl
@[simp] theorem State.setInput_fifo (l : LineNo) (x : InputLine) : (s.setInput l x).fifo = s.fifo := rfl
@[simp] theorem State.setInput_monitor (l : LineNo) (x : InputLine) : (s.setInput l x).monitor = s.monitor := rfl
@[simp] theorem State.setInput_outputs (l : LineNo) (x : InputLine) : (s.setInput l x).outputs = s.outputs := rfl
@[simp] theorem State.setInput_engine (l : LineNo) (x : InputLine) : (s.setInput l x).engine = s.engine := rfl
@[simp] theorem State.setInput_pointer (l : LineNo) (x : InputLine) : (s.setInput l x).pointer = s.pointer := rfl
@[simp] theorem State.setInput_ports (l : LineNo) (x : InputLine) : (s.setInput l x).ports = s.ports := rfl

/-! ## setOutput -/

@[simp] theorem State.setOutput_pending (l : LineNo) (x : OutputLine) : (s.setOutput l x).pending = s.pending := rfl
@[simp] theorem State.setOutput_rstn (l : LineNo) (x : OutputLine) : (s.setOutput l x).rstn = s.rstn := rfl
@[simp] theorem State.setOutput_straps (l : LineNo) (x : OutputLine) : (s.setOutput l x).straps = s.straps := rfl
@[simp] theorem State.setOutput_time (l : LineNo) (x : OutputLine) : (s.setOutput l x).time = s.time := rfl
@[simp] theorem State.setOutput_divider (l : LineNo) (x : OutputLine) : (s.setOutput l x).divider = s.divider := rfl
@[simp] theorem State.setOutput_tickDue (l : LineNo) (x : OutputLine) : (s.setOutput l x).tickDue = s.tickDue := rfl
@[simp] theorem State.setOutput_divisor (l : LineNo) (x : OutputLine) : (s.setOutput l x).divisor = s.divisor := rfl
@[simp] theorem State.setOutput_pendingDivisor (l : LineNo) (x : OutputLine) : (s.setOutput l x).pendingDivisor = s.pendingDivisor := rfl
@[simp] theorem State.setOutput_authority (l : LineNo) (x : OutputLine) : (s.setOutput l x).authority = s.authority := rfl
@[simp] theorem State.setOutput_slew (l : LineNo) (x : OutputLine) : (s.setOutput l x).slew = s.slew := rfl
@[simp] theorem State.setOutput_slots (l : LineNo) (x : OutputLine) : (s.setOutput l x).slots = s.slots := rfl
@[simp] theorem State.setOutput_quotas (l : LineNo) (x : OutputLine) : (s.setOutput l x).quotas = s.quotas := rfl
@[simp] theorem State.setOutput_queue (l : LineNo) (x : OutputLine) : (s.setOutput l x).queue = s.queue := rfl
@[simp] theorem State.setOutput_insertion (l : LineNo) (x : OutputLine) : (s.setOutput l x).insertion = s.insertion := rfl
@[simp] theorem State.setOutput_firing (l : LineNo) (x : OutputLine) : (s.setOutput l x).firing = s.firing := rfl
@[simp] theorem State.setOutput_inputs (l : LineNo) (x : OutputLine) : (s.setOutput l x).inputs = s.inputs := rfl
@[simp] theorem State.setOutput_fifo (l : LineNo) (x : OutputLine) : (s.setOutput l x).fifo = s.fifo := rfl
@[simp] theorem State.setOutput_monitor (l : LineNo) (x : OutputLine) : (s.setOutput l x).monitor = s.monitor := rfl
@[simp] theorem State.setOutput_outputs (l : LineNo) (x : OutputLine) : (s.setOutput l x).outputs = s.outputs.set l x := rfl
@[simp] theorem State.setOutput_engine (l : LineNo) (x : OutputLine) : (s.setOutput l x).engine = s.engine := rfl
@[simp] theorem State.setOutput_pointer (l : LineNo) (x : OutputLine) : (s.setOutput l x).pointer = s.pointer := rfl
@[simp] theorem State.setOutput_ports (l : LineNo) (x : OutputLine) : (s.setOutput l x).ports = s.ports := rfl

/-! ## Reading after writing -/

theorem State.port_setPort (p p' : PortNo) (x : HostPort) :
    (s.setPort p x).port p' = if p' = p then x else s.port p' := by
  simp only [State.port, State.setPort, Fin.getElem_fin, Vector.getElem_set, Fin.ext_iff, eq_comm]

@[simp] theorem State.port_setPort_self (p : PortNo) (x : HostPort) : (s.setPort p x).port p = x := by
  rw [State.port_setPort, if_pos rfl]

theorem State.port_setPort_of_ne {p p' : PortNo} (h : p' ≠ p) (x : HostPort) :
    (s.setPort p x).port p' = s.port p' := by
  rw [State.port_setPort, if_neg h]

theorem State.slot_setSlot (n n' : SlotNo) (x : Slot) :
    (s.setSlot n x).slot n' = if n' = n then x else s.slot n' := by
  simp only [State.slot, State.setSlot, Fin.getElem_fin, Vector.getElem_set, Fin.ext_iff, eq_comm]

@[simp] theorem State.slot_setSlot_self (n : SlotNo) (x : Slot) : (s.setSlot n x).slot n = x := by
  rw [State.slot_setSlot, if_pos rfl]

theorem State.slot_setSlot_of_ne {n n' : SlotNo} (h : n' ≠ n) (x : Slot) :
    (s.setSlot n x).slot n' = s.slot n' := by
  rw [State.slot_setSlot, if_neg h]

theorem State.quota_setQuota (p p' : PortNo) (x : QuotaEntry) :
    (s.setQuota p x).quota p' = if p' = p then x else s.quota p' := by
  simp only [State.quota, State.setQuota, Fin.getElem_fin, Vector.getElem_set, Fin.ext_iff, eq_comm]

@[simp] theorem State.quota_setQuota_self (p : PortNo) (x : QuotaEntry) : (s.setQuota p x).quota p = x := by
  rw [State.quota_setQuota, if_pos rfl]

theorem State.quota_setQuota_of_ne {p p' : PortNo} (h : p' ≠ p) (x : QuotaEntry) :
    (s.setQuota p x).quota p' = s.quota p' := by
  rw [State.quota_setQuota, if_neg h]

theorem State.input_setInput (l l' : LineNo) (x : InputLine) :
    (s.setInput l x).input l' = if l' = l then x else s.input l' := by
  simp only [State.input, State.setInput, Fin.getElem_fin, Vector.getElem_set, Fin.ext_iff, eq_comm]

@[simp] theorem State.input_setInput_self (l : LineNo) (x : InputLine) : (s.setInput l x).input l = x := by
  rw [State.input_setInput, if_pos rfl]

theorem State.input_setInput_of_ne {l l' : LineNo} (h : l' ≠ l) (x : InputLine) :
    (s.setInput l x).input l' = s.input l' := by
  rw [State.input_setInput, if_neg h]

theorem State.output_setOutput (l l' : LineNo) (x : OutputLine) :
    (s.setOutput l x).output l' = if l' = l then x else s.output l' := by
  simp only [State.output, State.setOutput, Fin.getElem_fin, Vector.getElem_set, Fin.ext_iff, eq_comm]

@[simp] theorem State.output_setOutput_self (l : LineNo) (x : OutputLine) : (s.setOutput l x).output l = x := by
  rw [State.output_setOutput, if_pos rfl]

theorem State.output_setOutput_of_ne {l l' : LineNo} (h : l' ≠ l) (x : OutputLine) :
    (s.setOutput l x).output l' = s.output l' := by
  rw [State.output_setOutput, if_neg h]

theorem State.slot_setHeld (n n' : SlotNo) (r : Reservation) :
    (s.setHeld n r).slot n' = if n' = n then { s.slot n with held := some r } else s.slot n' :=
  s.slot_setSlot n n' _

theorem State.held_setSlot (n n' : SlotNo) (x : Slot) :
    (s.setSlot n x).held n' = if n' = n then x.held else s.held n' := by
  simp only [State.held, State.slot_setSlot, apply_ite Slot.held]

theorem State.held_setHeld (n n' : SlotNo) (r : Reservation) :
    (s.setHeld n r).held n' = if n' = n then some r else s.held n' :=
  s.held_setSlot n n' _

@[simp] theorem State.held_setHeld_self (n : SlotNo) (r : Reservation) : (s.setHeld n r).held n = some r := by
  rw [State.held_setHeld, if_pos rfl]

@[simp] theorem State.generation_setHeld (n n' : SlotNo) (r : Reservation) :
    ((s.setHeld n r).slot n').generation = (s.slot n').generation := by
  rw [State.slot_setHeld]; split <;> simp_all

/-! ## Reading after an update of another part -/

@[simp] theorem State.port_setSlot (n : SlotNo) (x : Slot) (q : PortNo) : (s.setSlot n x).port q = s.port q := rfl
@[simp] theorem State.port_setHeld (n : SlotNo) (r : Reservation) (q : PortNo) : (s.setHeld n r).port q = s.port q := rfl
@[simp] theorem State.port_setQuota (p : PortNo) (x : QuotaEntry) (q : PortNo) : (s.setQuota p x).port q = s.port q := rfl
@[simp] theorem State.port_setInput (l : LineNo) (x : InputLine) (q : PortNo) : (s.setInput l x).port q = s.port q := rfl
@[simp] theorem State.port_setOutput (l : LineNo) (x : OutputLine) (q : PortNo) : (s.setOutput l x).port q = s.port q := rfl
@[simp] theorem State.slot_setPort (p : PortNo) (x : HostPort) (m : SlotNo) : (s.setPort p x).slot m = s.slot m := rfl
@[simp] theorem State.slot_setQuota (p : PortNo) (x : QuotaEntry) (m : SlotNo) : (s.setQuota p x).slot m = s.slot m := rfl
@[simp] theorem State.slot_setInput (l : LineNo) (x : InputLine) (m : SlotNo) : (s.setInput l x).slot m = s.slot m := rfl
@[simp] theorem State.slot_setOutput (l : LineNo) (x : OutputLine) (m : SlotNo) : (s.setOutput l x).slot m = s.slot m := rfl
@[simp] theorem State.held_setPort (p : PortNo) (x : HostPort) (m : SlotNo) : (s.setPort p x).held m = s.held m := rfl
@[simp] theorem State.held_setQuota (p : PortNo) (x : QuotaEntry) (m : SlotNo) : (s.setQuota p x).held m = s.held m := rfl
@[simp] theorem State.held_setInput (l : LineNo) (x : InputLine) (m : SlotNo) : (s.setInput l x).held m = s.held m := rfl
@[simp] theorem State.held_setOutput (l : LineNo) (x : OutputLine) (m : SlotNo) : (s.setOutput l x).held m = s.held m := rfl
@[simp] theorem State.quota_setPort (p : PortNo) (x : HostPort) (q : PortNo) : (s.setPort p x).quota q = s.quota q := rfl
@[simp] theorem State.quota_setSlot (n : SlotNo) (x : Slot) (q : PortNo) : (s.setSlot n x).quota q = s.quota q := rfl
@[simp] theorem State.quota_setHeld (n : SlotNo) (r : Reservation) (q : PortNo) : (s.setHeld n r).quota q = s.quota q := rfl
@[simp] theorem State.quota_setInput (l : LineNo) (x : InputLine) (q : PortNo) : (s.setInput l x).quota q = s.quota q := rfl
@[simp] theorem State.quota_setOutput (l : LineNo) (x : OutputLine) (q : PortNo) : (s.setOutput l x).quota q = s.quota q := rfl
@[simp] theorem State.input_setPort (p : PortNo) (x : HostPort) (k : LineNo) : (s.setPort p x).input k = s.input k := rfl
@[simp] theorem State.input_setSlot (n : SlotNo) (x : Slot) (k : LineNo) : (s.setSlot n x).input k = s.input k := rfl
@[simp] theorem State.input_setHeld (n : SlotNo) (r : Reservation) (k : LineNo) : (s.setHeld n r).input k = s.input k := rfl
@[simp] theorem State.input_setQuota (p : PortNo) (x : QuotaEntry) (k : LineNo) : (s.setQuota p x).input k = s.input k := rfl
@[simp] theorem State.input_setOutput (l : LineNo) (x : OutputLine) (k : LineNo) : (s.setOutput l x).input k = s.input k := rfl
@[simp] theorem State.output_setPort (p : PortNo) (x : HostPort) (k : LineNo) : (s.setPort p x).output k = s.output k := rfl
@[simp] theorem State.output_setSlot (n : SlotNo) (x : Slot) (k : LineNo) : (s.setSlot n x).output k = s.output k := rfl
@[simp] theorem State.output_setHeld (n : SlotNo) (r : Reservation) (k : LineNo) : (s.setHeld n r).output k = s.output k := rfl
@[simp] theorem State.output_setQuota (p : PortNo) (x : QuotaEntry) (k : LineNo) : (s.setQuota p x).output k = s.output k := rfl
@[simp] theorem State.output_setInput (l : LineNo) (x : InputLine) (k : LineNo) : (s.setInput l x).output k = s.output k := rfl

/-! ## Reading after an update of one field -/

@[simp] theorem State.port_with_time (x : TimeCount) (p : PortNo) : State.port { s with time := x } p = s.port p := rfl
@[simp] theorem State.port_with_authority (x : Option PortNo) (p : PortNo) : State.port { s with authority := x } p = s.port p := rfl
@[simp] theorem State.port_with_slew (x : Option Slew) (p : PortNo) : State.port { s with slew := x } p = s.port p := rfl
@[simp] theorem State.port_with_pendingDivisor (x : Option Nat) (p : PortNo) : State.port { s with pendingDivisor := x } p = s.port p := rfl
@[simp] theorem State.port_with_queue (x : List Entry) (p : PortNo) : State.port { s with queue := x } p = s.port p := rfl
@[simp] theorem State.port_with_insertion (x : Option Insertion) (p : PortNo) : State.port { s with insertion := x } p = s.port p := rfl
@[simp] theorem State.port_with_firing (x : Option FiringRecord) (p : PortNo) : State.port { s with firing := x } p = s.port p := rfl
@[simp] theorem State.port_with_fifo (x : List EdgeRecord) (p : PortNo) : State.port { s with fifo := x } p = s.port p := rfl
@[simp] theorem State.port_with_monitor (x : MonitorPhase) (p : PortNo) : State.port { s with monitor := x } p = s.port p := rfl
@[simp] theorem State.port_with_engine (x : Engine) (p : PortNo) : State.port { s with engine := x } p = s.port p := rfl
@[simp] theorem State.port_with_pointer (x : PortNo) (p : PortNo) : State.port { s with pointer := x } p = s.port p := rfl
@[simp] theorem State.port_with_pending (x : List Instr) (p : PortNo) : State.port { s with pending := x } p = s.port p := rfl
@[simp] theorem State.slot_with_time (x : TimeCount) (n : SlotNo) : State.slot { s with time := x } n = s.slot n := rfl
@[simp] theorem State.slot_with_authority (x : Option PortNo) (n : SlotNo) : State.slot { s with authority := x } n = s.slot n := rfl
@[simp] theorem State.slot_with_slew (x : Option Slew) (n : SlotNo) : State.slot { s with slew := x } n = s.slot n := rfl
@[simp] theorem State.slot_with_pendingDivisor (x : Option Nat) (n : SlotNo) : State.slot { s with pendingDivisor := x } n = s.slot n := rfl
@[simp] theorem State.slot_with_queue (x : List Entry) (n : SlotNo) : State.slot { s with queue := x } n = s.slot n := rfl
@[simp] theorem State.slot_with_insertion (x : Option Insertion) (n : SlotNo) : State.slot { s with insertion := x } n = s.slot n := rfl
@[simp] theorem State.slot_with_firing (x : Option FiringRecord) (n : SlotNo) : State.slot { s with firing := x } n = s.slot n := rfl
@[simp] theorem State.slot_with_fifo (x : List EdgeRecord) (n : SlotNo) : State.slot { s with fifo := x } n = s.slot n := rfl
@[simp] theorem State.slot_with_monitor (x : MonitorPhase) (n : SlotNo) : State.slot { s with monitor := x } n = s.slot n := rfl
@[simp] theorem State.slot_with_engine (x : Engine) (n : SlotNo) : State.slot { s with engine := x } n = s.slot n := rfl
@[simp] theorem State.slot_with_pointer (x : PortNo) (n : SlotNo) : State.slot { s with pointer := x } n = s.slot n := rfl
@[simp] theorem State.slot_with_pending (x : List Instr) (n : SlotNo) : State.slot { s with pending := x } n = s.slot n := rfl
@[simp] theorem State.held_with_time (x : TimeCount) (n : SlotNo) : State.held { s with time := x } n = s.held n := rfl
@[simp] theorem State.held_with_authority (x : Option PortNo) (n : SlotNo) : State.held { s with authority := x } n = s.held n := rfl
@[simp] theorem State.held_with_slew (x : Option Slew) (n : SlotNo) : State.held { s with slew := x } n = s.held n := rfl
@[simp] theorem State.held_with_pendingDivisor (x : Option Nat) (n : SlotNo) : State.held { s with pendingDivisor := x } n = s.held n := rfl
@[simp] theorem State.held_with_queue (x : List Entry) (n : SlotNo) : State.held { s with queue := x } n = s.held n := rfl
@[simp] theorem State.held_with_insertion (x : Option Insertion) (n : SlotNo) : State.held { s with insertion := x } n = s.held n := rfl
@[simp] theorem State.held_with_firing (x : Option FiringRecord) (n : SlotNo) : State.held { s with firing := x } n = s.held n := rfl
@[simp] theorem State.held_with_fifo (x : List EdgeRecord) (n : SlotNo) : State.held { s with fifo := x } n = s.held n := rfl
@[simp] theorem State.held_with_monitor (x : MonitorPhase) (n : SlotNo) : State.held { s with monitor := x } n = s.held n := rfl
@[simp] theorem State.held_with_engine (x : Engine) (n : SlotNo) : State.held { s with engine := x } n = s.held n := rfl
@[simp] theorem State.held_with_pointer (x : PortNo) (n : SlotNo) : State.held { s with pointer := x } n = s.held n := rfl
@[simp] theorem State.held_with_pending (x : List Instr) (n : SlotNo) : State.held { s with pending := x } n = s.held n := rfl
@[simp] theorem State.quota_with_time (x : TimeCount) (p : PortNo) : State.quota { s with time := x } p = s.quota p := rfl
@[simp] theorem State.quota_with_authority (x : Option PortNo) (p : PortNo) : State.quota { s with authority := x } p = s.quota p := rfl
@[simp] theorem State.quota_with_slew (x : Option Slew) (p : PortNo) : State.quota { s with slew := x } p = s.quota p := rfl
@[simp] theorem State.quota_with_pendingDivisor (x : Option Nat) (p : PortNo) : State.quota { s with pendingDivisor := x } p = s.quota p := rfl
@[simp] theorem State.quota_with_queue (x : List Entry) (p : PortNo) : State.quota { s with queue := x } p = s.quota p := rfl
@[simp] theorem State.quota_with_insertion (x : Option Insertion) (p : PortNo) : State.quota { s with insertion := x } p = s.quota p := rfl
@[simp] theorem State.quota_with_firing (x : Option FiringRecord) (p : PortNo) : State.quota { s with firing := x } p = s.quota p := rfl
@[simp] theorem State.quota_with_fifo (x : List EdgeRecord) (p : PortNo) : State.quota { s with fifo := x } p = s.quota p := rfl
@[simp] theorem State.quota_with_monitor (x : MonitorPhase) (p : PortNo) : State.quota { s with monitor := x } p = s.quota p := rfl
@[simp] theorem State.quota_with_engine (x : Engine) (p : PortNo) : State.quota { s with engine := x } p = s.quota p := rfl
@[simp] theorem State.quota_with_pointer (x : PortNo) (p : PortNo) : State.quota { s with pointer := x } p = s.quota p := rfl
@[simp] theorem State.quota_with_pending (x : List Instr) (p : PortNo) : State.quota { s with pending := x } p = s.quota p := rfl
@[simp] theorem State.input_with_time (x : TimeCount) (l : LineNo) : State.input { s with time := x } l = s.input l := rfl
@[simp] theorem State.input_with_authority (x : Option PortNo) (l : LineNo) : State.input { s with authority := x } l = s.input l := rfl
@[simp] theorem State.input_with_slew (x : Option Slew) (l : LineNo) : State.input { s with slew := x } l = s.input l := rfl
@[simp] theorem State.input_with_pendingDivisor (x : Option Nat) (l : LineNo) : State.input { s with pendingDivisor := x } l = s.input l := rfl
@[simp] theorem State.input_with_queue (x : List Entry) (l : LineNo) : State.input { s with queue := x } l = s.input l := rfl
@[simp] theorem State.input_with_insertion (x : Option Insertion) (l : LineNo) : State.input { s with insertion := x } l = s.input l := rfl
@[simp] theorem State.input_with_firing (x : Option FiringRecord) (l : LineNo) : State.input { s with firing := x } l = s.input l := rfl
@[simp] theorem State.input_with_fifo (x : List EdgeRecord) (l : LineNo) : State.input { s with fifo := x } l = s.input l := rfl
@[simp] theorem State.input_with_monitor (x : MonitorPhase) (l : LineNo) : State.input { s with monitor := x } l = s.input l := rfl
@[simp] theorem State.input_with_engine (x : Engine) (l : LineNo) : State.input { s with engine := x } l = s.input l := rfl
@[simp] theorem State.input_with_pointer (x : PortNo) (l : LineNo) : State.input { s with pointer := x } l = s.input l := rfl
@[simp] theorem State.input_with_pending (x : List Instr) (l : LineNo) : State.input { s with pending := x } l = s.input l := rfl
@[simp] theorem State.output_with_time (x : TimeCount) (l : LineNo) : State.output { s with time := x } l = s.output l := rfl
@[simp] theorem State.output_with_authority (x : Option PortNo) (l : LineNo) : State.output { s with authority := x } l = s.output l := rfl
@[simp] theorem State.output_with_slew (x : Option Slew) (l : LineNo) : State.output { s with slew := x } l = s.output l := rfl
@[simp] theorem State.output_with_pendingDivisor (x : Option Nat) (l : LineNo) : State.output { s with pendingDivisor := x } l = s.output l := rfl
@[simp] theorem State.output_with_queue (x : List Entry) (l : LineNo) : State.output { s with queue := x } l = s.output l := rfl
@[simp] theorem State.output_with_insertion (x : Option Insertion) (l : LineNo) : State.output { s with insertion := x } l = s.output l := rfl
@[simp] theorem State.output_with_firing (x : Option FiringRecord) (l : LineNo) : State.output { s with firing := x } l = s.output l := rfl
@[simp] theorem State.output_with_fifo (x : List EdgeRecord) (l : LineNo) : State.output { s with fifo := x } l = s.output l := rfl
@[simp] theorem State.output_with_monitor (x : MonitorPhase) (l : LineNo) : State.output { s with monitor := x } l = s.output l := rfl
@[simp] theorem State.output_with_engine (x : Engine) (l : LineNo) : State.output { s with engine := x } l = s.output l := rfl
@[simp] theorem State.output_with_pointer (x : PortNo) (l : LineNo) : State.output { s with pointer := x } l = s.output l := rfl
@[simp] theorem State.output_with_pending (x : List Instr) (l : LineNo) : State.output { s with pending := x } l = s.output l := rfl

end Sys2Proof.Machine
end

