-- ==== Sys2Proof/Laws/Ops.lean ====
section
/-! SUPPORT. For each operation that the steps share, what it can do, said once. -/

namespace Sys2Proof.Machine

/-! ## Saturation -/

theorem satTime_toNat (n : Nat) : (satTime n).toNat = min n Config.timeMax := by
  simp only [satTime, Config.timeMax, BitVec.toNat_ofNat]; omega

theorem satWord_toNat (n : Nat) : (satWord n).toNat = min n Config.wordMax := by
  simp only [satWord, Config.wordMax, BitVec.toNat_ofNat]; omega

theorem satHalf_toNat (n : Nat) : (satHalf n).toNat = min n Config.halfMax := by
  simp only [satHalf, Config.halfMax, BitVec.toNat_ofNat]; omega

/-! ## Ports: attention and arrivals -/

@[simp] theorem HostPort.drive_session (p : HostPort) : p.drive.session = p.session := rfl
@[simp] theorem HostPort.drive_sessionNumber (p : HostPort) : p.drive.sessionNumber = p.sessionNumber := rfl
@[simp] theorem HostPort.drive_request (p : HostPort) : p.drive.request = p.request := rfl
@[simp] theorem HostPort.drive_teardownPending (p : HostPort) : p.drive.teardownPending = p.teardownPending := rfl
@[simp] theorem HostPort.drive_resetMark (p : HostPort) : p.drive.resetMark = p.resetMark := rfl
@[simp] theorem HostPort.drive_notices (p : HostPort) : p.drive.notices = p.notices := rfl
@[simp] theorem HostPort.drive_nextSeq (p : HostPort) : p.drive.nextSeq = p.nextSeq := rfl
@[simp] theorem HostPort.drive_threshold (p : HostPort) : p.drive.threshold = p.threshold := rfl
@[simp] theorem HostPort.drive_holdoff (p : HostPort) : p.drive.holdoff = p.holdoff := rfl
@[simp] theorem HostPort.drive_holdoffCounter (p : HostPort) : p.drive.holdoffCounter = p.holdoffCounter := rfl
@[simp] theorem HostPort.drive_link (p : HostPort) : p.drive.link = p.link := rfl
@[simp] theorem HostPort.drive_prstn (p : HostPort) : p.drive.prstn = p.prstn := rfl
@[simp] theorem HostPort.drive_chipSelect (p : HostPort) : p.drive.chipSelect = p.chipSelect := rfl
@[simp] theorem HostPort.drive_snapshot (p : HostPort) : p.drive.snapshot = p.snapshot := rfl
@[simp] theorem HostPort.drive_attn (p : HostPort) : p.drive.attn = p.attention := rfl
@[simp] theorem HostPort.attention_drive (p : HostPort) : p.drive.attention = p.attention := rfl
@[simp] theorem HostPort.overflow_drive (p : HostPort) : p.drive.overflow = p.overflow := rfl

/-- Outside OPEN an arrival is discarded (R127). -/
theorem HostPort.arrive_discarded {p : HostPort} (now : TimeCount) (n : Notice) (h : p.session ≠ .opened) :
    p.arrive now n = p := by
  unfold HostPort.arrive; split <;> first | rfl | exact absurd ‹_› h

/-- With OVERFLOW present an arrival is counted into it (R127). -/
theorem HostPort.arrive_counted {p : HostPort} (now : TimeCount) (n : Notice) (h : p.session = .opened)
    (ho : p.overflow = true) : p.arrive now n = { p with notices := p.notices.map (Stored.countDrop now) } := by
  simp [HostPort.arrive, h, ho]

/-- With fewer than 31 notices and no OVERFLOW an arrival is stored (R127). -/
theorem HostPort.arrive_stored {p : HostPort} (now : TimeCount) (n : Notice) (h : p.session = .opened)
    (ho : p.overflow = false) (hl : p.notices.length < 31) : p.arrive now n = p.store n := by
  simp [HostPort.arrive, h, ho, Config.ordinaryNotices, hl]

/-- With 31 notices and no OVERFLOW an arrival raises OVERFLOW (R127). -/
theorem HostPort.arrive_raised {p : HostPort} (now : TimeCount) (n : Notice) (h : p.session = .opened)
    (ho : p.overflow = false) (hl : 31 ≤ p.notices.length) : p.arrive now n = p.store (Notice.overflow now) := by
  simp [HostPort.arrive, h, ho, Config.ordinaryNotices, Nat.not_lt.2 hl]

/-- What an arrival can do: nothing, count into OVERFLOW, or store one notice (R127). -/
theorem HostPort.arrive_cases (p : HostPort) (now : TimeCount) (n : Notice) :
    (p.session ≠ .opened ∧ p.arrive now n = p) ∨
    (p.session = .opened ∧ p.overflow = true ∧
      p.arrive now n = { p with notices := p.notices.map (Stored.countDrop now) }) ∨
    (p.session = .opened ∧ p.overflow = false ∧ p.notices.length < 31 ∧ p.arrive now n = p.store n) ∨
    (p.session = .opened ∧ p.overflow = false ∧ 31 ≤ p.notices.length ∧
      p.arrive now n = p.store (Notice.overflow now)) := by
  by_cases h : p.session = .opened
  · cases ho : p.overflow
    · rcases Nat.lt_or_ge p.notices.length 31 with hl | hl
      · exact .inr (.inr (.inl ⟨h, rfl, hl, arrive_stored now n h ho hl⟩))
      · exact .inr (.inr (.inr ⟨h, rfl, hl, arrive_raised now n h ho hl⟩))
    · exact .inr (.inl ⟨h, rfl, arrive_counted now n h ho⟩)
  · exact .inl ⟨h, arrive_discarded now n h⟩

/-- An arrival touches the notice queue and attention alone. -/
theorem HostPort.arrive_frame (p : HostPort) (now : TimeCount) (n : Notice) :
    ∃ notices nextSeq holdoffCounter attn, p.arrive now n = { p with notices, nextSeq, holdoffCounter, attn } := by
  rcases p.arrive_cases now n with ⟨-, h⟩ | ⟨-, -, h⟩ | ⟨-, -, -, h⟩ | ⟨-, -, -, h⟩
  · exact ⟨_, _, _, _, h⟩
  · exact ⟨_, _, _, p.attn, h⟩
  · exact ⟨_, _, _, _, h⟩
  · exact ⟨_, _, _, _, h⟩

/-! ## Deliveries -/

/-- A delivery is an arrival at its port, and touches nothing else. -/
theorem State.port_deliver (n : Notice) (s : State) (p q : PortNo) :
    (s.deliver n p).port q = if q = p then (s.port p).arrive s.time n else s.port q :=
  s.port_setPort p q _

/-- Deliveries touch the ports alone. -/
theorem State.foldl_deliver_frame (n : Notice) (ps : List PortNo) (s : State) :
    ∃ ports, ps.foldl (State.deliver n) s = { s with ports } := by
  induction ps generalizing s with
  | nil => exact ⟨_, rfl⟩
  | cons p ps ih => obtain ⟨ports, h⟩ := ih (s.deliver n p); exact ⟨ports, h⟩

/-- Deliveries to distinct ports: each receives one arrival. -/
theorem State.port_foldl_deliver (n : Notice) (ps : List PortNo) (hps : ps.Nodup) (s : State) (q : PortNo) :
    (ps.foldl (State.deliver n) s).port q = if q ∈ ps then (s.port q).arrive s.time n else s.port q := by
  induction ps generalizing s with
  | nil => simp
  | cons p ps ih =>
    obtain ⟨hp, hps⟩ := List.nodup_cons.1 hps
    rw [List.foldl_cons, ih hps]
    have ht : (s.deliver n p).time = s.time := rfl
    by_cases h : q = p
    · subst h; simp [hp, State.port_deliver]
    · simp [h, State.port_deliver, ht]

theorem watcherPorts_nodup (w : Vector Bool 4) : (watcherPorts w).Nodup := (List.nodup_finRange 4).filter _

theorem mem_watcherPorts (w : Vector Bool 4) (q : PortNo) : q ∈ watcherPorts w ↔ w[q] = true := by
  simp [watcherPorts]

/-- The watchers' copies: each watcher's queue receives one arrival, marked WATCHED (R18). -/
theorem State.port_deliverWatchers (n : Notice) (w : Vector Bool 4) (s : State) (q : PortNo) :
    (s.deliverWatchers n w).port q =
      if w[q] = true then (s.port q).arrive s.time { n with watched := true } else s.port q := by
  rw [State.deliverWatchers, State.port_foldl_deliver _ _ (watcherPorts_nodup w)]
  simp only [mem_watcherPorts]

theorem State.deliverWatchers_frame (n : Notice) (w : Vector Bool 4) (s : State) :
    ∃ ports, s.deliverWatchers n w = { s with ports } := State.foldl_deliver_frame _ _ _

/-- The copies of a notice to the owner and to each watcher, the owner not being one (R57, R73). -/
theorem State.port_deliverAll (n : Notice) (r : Reservation) (s : State) (hw : r.watchers[r.owner] = false) (q : PortNo) :
    (s.deliverAll n r).port q =
      if q = r.owner then (s.port q).arrive s.time n
      else if r.watchers[q] = true then (s.port q).arrive s.time { n with watched := true } else s.port q := by
  have ht : (s.deliver n r.owner).time = s.time := rfl
  rw [State.deliverAll, State.port_deliverWatchers, State.port_deliver, ht]
  by_cases h : q = r.owner
  · subst h; simp [hw]
  · simp [h]

theorem State.deliverAll_frame (n : Notice) (r : Reservation) (s : State) :
    ∃ ports, s.deliverAll n r = { s with ports } := by
  obtain ⟨ports, h⟩ := State.deliverWatchers_frame n r.watchers (s.deliver n r.owner)
  exact ⟨ports, h⟩

/-! ## Requests -/

/-- A completion without the reset mark holds the response in DONE and frees the engine (R144). -/
theorem State.complete_of_executing {s : State} {p : PortNo} {f : Frame} (hf : (s.port p).request = .executing f)
    (hm : (s.port p).resetMark = false) (status : Status) (results : List Byte) :
    s.complete p status results =
      { s.setPort p { s.port p with request := .done { code := f.code, status, results } } with engine := .free } := by
  simp [State.complete, hf, hm]

/-- A completion with the reset mark discards the response, and a teardown becomes pending on an OPEN port (R147). -/
theorem State.complete_of_resetMark {s : State} {p : PortNo} (hm : (s.port p).resetMark = true) (status : Status)
    (results : List Byte) :
    s.complete p status results =
      { s.setPort p { s.port p with
          request := .idle, resetMark := false,
          teardownPending := (s.port p).teardownPending || (s.port p).session == .opened } with engine := .free } := by
  simp [State.complete, hm]

/-- A completion touches the port's request state, reset mark and teardown pending, and the engine. -/
theorem State.complete_frame (s : State) (p : PortNo) (status : Status) (results : List Byte) :
    ∃ request resetMark teardownPending, s.complete p status results =
      { s.setPort p { s.port p with request, resetMark, teardownPending } with engine := .free } := by
  cases hm : (s.port p).resetMark
  · exact ⟨_, false, (s.port p).teardownPending, by simp only [State.complete, hm]; rfl⟩
  · exact ⟨_, _, _, State.complete_of_resetMark hm status results⟩

@[simp] theorem State.complete_engine (s : State) (p : PortNo) (status : Status) (results : List Byte) :
    (s.complete p status results).engine = .free := rfl

/-- What the engine does with the row of a request: nothing, when that request is not in its hand; a refusal by the frame
check or the session check; or the request's own work (R149). -/
theorem State.serve_cases (c : Req) (k : PortNo → List Byte → State → State) (s : State) :
    s.serve c k = s ∨
    ∃ p f, s.engine = .granted p ∧ (s.port p).request = .executing f ∧ f.code = c.code ∧
      ((f.params.length ≠ c.length ∧ s.serve c k = s.refuse p .length) ∨
       (f.params.length = c.length ∧ c ≠ .openSession ∧ (s.port p).session ≠ .opened ∧
         s.serve c k = s.refuse p .notOpen) ∨
       (f.params.length = c.length ∧ (c ≠ .openSession → (s.port p).session = .opened) ∧
         s.serve c k = k p f.params s)) := by
  unfold State.serve
  split
  · next p he =>
    split
    · next f hf =>
      split
      · exact .inl rfl
      · next hc =>
        refine .inr ⟨p, f, he, hf, not_not.1 hc, ?_⟩
        split
        · next hl => exact .inl ⟨hl, rfl⟩
        · next hl =>
          split
          · next ho => exact .inr (.inl ⟨not_not.1 hl, ho.1, ho.2, rfl⟩)
          · next ho =>
            refine .inr (.inr ⟨not_not.1 hl, fun h => ?_, rfl⟩)
            by_contra h'
            exact ho ⟨h, h'⟩
    · exact .inl rfl
  · exact .inl rfl

/-- The engine serves a granted request that passes the frame and session checks. -/
theorem State.serve_of_granted {s : State} {p : PortNo} {c : Req} {params : List Byte} (he : s.engine = .granted p)
    (hf : (s.port p).request = .executing { code := c.code, params }) (hl : params.length = c.length)
    (ho : c ≠ .openSession → (s.port p).session = .opened) (k : PortNo → List Byte → State → State) :
    s.serve c k = k p params s := by
  have : ¬(c ≠ .openSession ∧ (s.port p).session ≠ .opened) := fun ⟨h, h'⟩ => h' (ho h)
  simp only [State.serve, he, hf, ne_eq, not_true_eq_false, if_false, hl]
  exact if_neg this

/-- A slot operation waits exactly while its slot is FIRING or an insertion is in flight (R6, R28). -/
theorem State.waitsFor_eq_none (s : State) (n : SlotNo) :
    s.waitsFor (some n) = none ↔ s.isFiring n = false ∧ s.insertion = none := by
  cases h : s.isFiring n <;> cases hi : s.insertion <;> simp [State.waitsFor, Option.filter, h, hi]

theorem State.waitsFor_of_isFiring {s : State} {n : SlotNo} (h : s.isFiring n = true) :
    s.waitsFor (some n) = some (.firing n) := by
  simp [State.waitsFor, Option.filter, h]

theorem State.offer_taken {s : State} {p : PortNo} {n : Option SlotNo} (h : s.waitsFor n = none) (op : SlotOp)
    (k : State → State) : s.offer p n op k = k s := by
  simp [State.offer, h]

theorem State.offer_waits {s : State} {p : PortNo} {n : Option SlotNo} {w : WaitFor} (h : s.waitsFor n = some w)
    (op : SlotOp) (k : State → State) : s.offer p n op k = { s with engine := .waiting p op w } := by
  simp [State.offer, h]

/-- A named slot passes steps 1 and 2 of R9 exactly when its number is below 64 and it is reserved. -/
theorem State.namedSlot_eq_some (s : State) (n : SlotNo) (r : Reservation) :
    s.namedSlot n.val = some (n, r) ↔ s.held n = some r := by
  simp [State.namedSlot]

/-! ## Binding lists -/

/-- A slot that leaves a binding list leaves it alone among the lists, and is passed over by a record in hand. -/
theorem State.unbind_frame (n : SlotNo) (l : LineNo) (s : State) :
    ∃ monitor, s.unbind n l =
      { s.setInput l { s.input l with bindings := (s.input l).bindings.filter (· ≠ n) } with monitor } := by
  unfold State.unbind
  dsimp only
  split
  · split
    · exact ⟨s.monitor, rfl⟩
    · exact ⟨_, rfl⟩
    · exact ⟨_, rfl⟩
  · exact ⟨s.monitor, rfl⟩

theorem State.input_unbind (n : SlotNo) (l k : LineNo) (s : State) :
    (s.unbind n l).input k =
      if k = l then { s.input l with bindings := (s.input l).bindings.filter (· ≠ n) } else s.input k := by
  obtain ⟨m, h⟩ := s.unbind_frame n l
  rw [h, State.input_with_monitor, State.input_setInput]

theorem State.unbindMode_frame (n : SlotNo) (m : Mode) (s : State) :
    ∃ inputs monitor, s.unbindMode n m = { s with inputs, monitor } := by
  unfold State.unbindMode
  split
  · next l _ =>
    obtain ⟨m, h⟩ := s.unbind_frame n l
    exact ⟨_, m, h⟩
  · exact ⟨s.inputs, s.monitor, rfl⟩

theorem State.rebind_frame (n : SlotNo) (old new : Mode) (s : State) :
    ∃ inputs monitor, s.rebind n old new = { s with inputs, monitor } := by
  unfold State.rebind
  split
  · exact ⟨s.inputs, s.monitor, rfl⟩
  · obtain ⟨i, m, h⟩ := s.unbindMode_frame n old
    dsimp only
    split
    · rw [h]; exact ⟨_, m, rfl⟩
    · exact ⟨i, m, h⟩

/-! ## The edge FIFO -/

/-- A recognition touches its own line and the tail of the FIFO. -/
theorem State.recognize_frame (l : LineNo) (s : State) :
    ∃ x fifo, s.recognize l = { s.setInput l x with fifo } ∧ (fifo = s.fifo ∨ ∃ rec : EdgeRecord, rec.line = l ∧
      rec.kind = .edge ∧ fifo = s.fifo ++ [rec]) := by
  unfold State.recognize
  dsimp only
  split
  · exact ⟨_, s.fifo, rfl, .inl rfl⟩
  · split
    · exact ⟨_, _, rfl, .inr ⟨_, rfl, rfl, rfl⟩⟩
    · exact ⟨_, s.fifo, rfl, .inl rfl⟩

theorem State.recognizeAll_frame (ls : List LineNo) (s : State) :
    ∃ inputs fifo, s.recognizeAll ls = { s with inputs, fifo } := by
  induction ls generalizing s with
  | nil => exact ⟨s.inputs, s.fifo, rfl⟩
  | cons l ls ih =>
    unfold State.recognizeAll
    rw [List.foldl_cons]
    split
    · obtain ⟨x, f, h, -⟩ := s.recognize_frame l
      obtain ⟨i, f', h'⟩ := ih (s.recognize l)
      rw [State.recognizeAll] at h'
      rw [h', h]
      exact ⟨i, f', rfl⟩
    · exact ih s

theorem State.recognizeBelow_frame (early : Nat) (s : State) :
    ∃ inputs fifo, s.recognizeBelow early = { s with inputs, fifo } := s.recognizeAll_frame _

/-- With no line below `early` no edge is recognized first. -/
@[simp] theorem State.recognizeBelow_zero (s : State) : s.recognizeBelow 0 = s := by
  have h : allLines.filter (fun l => decide (l.val < 0)) = [] := by decide
  rw [State.recognizeBelow, h, State.recognizeAll, List.foldl_nil]

/-- The offer of a free place touches the input lines and the FIFO alone. -/
theorem State.offerPlace_frame (ls : List LineNo) (s : State) :
    ∃ inputs fifo, State.offerPlace ls s = { s with inputs, fifo } := by
  induction ls generalizing s with
  | nil => exact ⟨s.inputs, s.fifo, rfl⟩
  | cons l ls ih =>
    unfold State.offerPlace
    dsimp only
    split
    · split
      · obtain ⟨i, f, h⟩ := ih (s.setInput l ((s.input l).settle (s.input l).synchronized))
        exact ⟨i, f, h⟩
      · split
        · exact ⟨_, _, rfl⟩
        · exact ⟨s.inputs, s.fifo, rfl⟩
    · exact ih s

/-- At most one record enters at an offer, and only where the FIFO has room (R106, R108). -/
theorem State.offerPlace_fifo (ls : List LineNo) (s : State) :
    (State.offerPlace ls s).fifo = s.fifo ∨
      ∃ rec : EdgeRecord, rec.kind = .level ∧ s.fifo.length < 16 ∧ (State.offerPlace ls s).fifo = s.fifo ++ [rec] := by
  induction ls generalizing s with
  | nil => exact .inl rfl
  | cons l ls ih =>
    unfold State.offerPlace
    dsimp only
    split
    · split
      · exact ih _
      · split
        · next h => exact .inr ⟨_, rfl, h, rfl⟩
        · exact .inl rfl
    · exact ih s

/-- A record that leaves touches the input lines, the FIFO and the phase of the Line Monitor. -/
theorem State.recordLeaves_frame (early : Nat) (s : State) :
    ∃ inputs fifo, s.recordLeaves early = { s with inputs, fifo, monitor := .ready } := by
  obtain ⟨i, f, h⟩ := State.recognizeBelow_frame early { s with fifo := s.fifo.tail, monitor := .ready }
  obtain ⟨i', f', h'⟩ := State.offerPlace_frame allLines
    (State.recognizeBelow early { s with fifo := s.fifo.tail, monitor := .ready })
  exact ⟨i', f', by rw [State.recordLeaves, h', h]⟩

theorem State.leaveIfApplied_frame (early : Nat) (s : State) :
    ∃ inputs fifo monitor, s.leaveIfApplied early = { s with inputs, fifo, monitor } := by
  unfold State.leaveIfApplied
  split
  · obtain ⟨i, f, h⟩ := s.recordLeaves_frame early
    exact ⟨i, f, _, h⟩
  · exact ⟨s.inputs, s.fifo, s.monitor, rfl⟩

theorem State.applicationDone_frame (s : State) : ∃ monitor, s.applicationDone = { s with monitor } := by
  unfold State.applicationDone
  split
  · exact ⟨_, rfl⟩
  · exact ⟨s.monitor, rfl⟩

/-! ## The Deadline Queue -/

/-- A placed entry joins the list; the others stay, in their order. -/
theorem placeEntry_perm (e : Entry) (q : List Entry) : (placeEntry e q).Perm (e :: q) := by
  unfold placeEntry
  refine List.perm_middle.trans ?_
  rw [List.take_append_drop]

/-- Every entry that the walk passes has a deadline no later than the new one (R29). -/
theorem take_walkLength (d : TimeCount) (q : List Entry) :
    q.take (walkLength d q) = q.takeWhile fun e => decide (e.deadline.toNat ≤ d.toNat) := by
  unfold walkLength
  induction q with
  | nil => rfl
  | cons e q ih => by_cases h : e.deadline.toNat ≤ d.toNat <;> simp [h, ih]

theorem drop_walkLength (d : TimeCount) (q : List Entry) :
    q.drop (walkLength d q) = q.dropWhile fun e => decide (e.deadline.toNat ≤ d.toNat) := by
  unfold walkLength
  induction q with
  | nil => rfl
  | cons e q ih => by_cases h : e.deadline.toNat ≤ d.toNat <;> simp [h, ih]

/-- The placed list: the passed entries, the new one, the others (R25, R29). -/
theorem placeEntry_eq (e : Entry) (q : List Entry) :
    placeEntry e q = (q.takeWhile fun x => decide (x.deadline.toNat ≤ e.deadline.toNat)) ++
      e :: q.dropWhile fun x => decide (x.deadline.toNat ≤ e.deadline.toNat) := by
  rw [placeEntry, take_walkLength, drop_walkLength]

/-- The completion of an insertion for a reserved slot (R29). -/
theorem State.place_of_held {s : State} {i : Insertion} {r : Reservation} (h : s.held i.slot = some r) :
    s.place i =
      ({ s with queue := placeEntry { slot := i.slot, deadline := i.deadline } s.queue, insertion := none }).setHeld
        i.slot { r with run := .armed i.deadline i.windowStart } := by
  have h' : State.held { s with queue := placeEntry { slot := i.slot, deadline := i.deadline } s.queue, insertion := none }
      i.slot = some r := h
  simp only [State.place, h']

/-- What taking an INSERT does: it completes at once, or it is in flight (R29). -/
theorem State.insert_cases (i : Insertion) (s : State) :
    (walkLength i.deadline s.queue = 0 ∧ s.insert i = s.finishInsert i) ∨
    (walkLength i.deadline s.queue ≠ 0 ∧ s.insert i = { s with insertion := some i }) := by
  unfold State.insert
  split
  · exact .inl ⟨‹_›, rfl⟩
  · exact .inr ⟨‹_›, rfl⟩

@[simp] theorem State.endFiring_firing (s : State) : s.endFiring.firing = none := rfl

/-- The end of a firing touches the firing record and a Line Monitor that was HOLDING (R76, R109). -/
theorem State.endFiring_frame (s : State) : ∃ monitor, s.endFiring = { s with firing := none, monitor } := ⟨_, rfl⟩

/-! ## The stages of a firing -/

/-- Deliveries of a port's own copy to distinct ports: each receives one arrival. -/
theorem State.foldl_copies (n : PortNo → Notice) (ps : List PortNo) (hps : ps.Nodup) (s : State) :
    ∃ ports, ps.foldl (fun s q => s.deliver (n q) q) s = { s with ports } ∧
      ∀ q, State.port { s with ports } q = if q ∈ ps then (s.port q).arrive s.time (n q) else s.port q := by
  induction ps generalizing s with
  | nil => exact ⟨s.ports, rfl, by simp⟩
  | cons p ps ih =>
    obtain ⟨hp, hps⟩ := List.nodup_cons.1 hps
    obtain ⟨ports, h, hq⟩ := ih hps (s.deliver (n p) p)
    refine ⟨ports, by rw [List.foldl_cons, h]; rfl, fun q => ?_⟩
    have hq := hq q
    rw [State.port_deliver] at hq
    refine Eq.trans hq ?_
    have ht : (s.deliver (n p) p).time = s.time := rfl
    by_cases e : q = p
    · subst e; simp [hp]
    · simp [e, ht]

/-- The second stage of a firing delivers to each port named its copy, if that is still due, and touches nothing but the ports
and what is still due (R73). -/
theorem State.deliverCopies_of_firing {s : State} {f : FiringRecord} {r : Reservation} {kind : NoticeKind}
    (hf : s.firing = some f) (hr : s.held f.slot = some r) (hk : f.noticeKind = some kind) (sent : BitVec 4) :
    ∃ ports, s.deliverCopies sent =
        { s with
          ports,
          firing := some { f with copiesDue := Vector.ofFn fun (q : PortNo) => f.copiesDue[q] && !sent.getLsbD q } } ∧
      ∀ q : PortNo, State.port { s with ports } q =
        if f.copiesDue[q] && sent.getLsbD q then
          (s.port q).arrive s.time (f.copy kind (s.slot f.slot).generation r q)
        else s.port q := by
  obtain ⟨ports, h, hq⟩ := State.foldl_copies (fun q => f.copy kind (s.slot f.slot).generation r q)
    (allPorts.filter fun (q : PortNo) => f.copiesDue[q] && sent.getLsbD q) ((List.nodup_finRange 4).filter _)
    { s with firing := some { f with copiesDue := Vector.ofFn fun (q : PortNo) => f.copiesDue[q] && !sent.getLsbD q } }
  refine ⟨ports, ?_, fun q => ?_⟩
  · unfold State.deliverCopies; rw [hf]; dsimp only; rw [hk, hr]; dsimp only at h; rw [hk] at h; exact h
  · refine Eq.trans (hq q) ?_
    simp only [allPorts, List.mem_filter, List.mem_finRange, true_and]
    rfl

/-- Where no copy named would arrive in a queue while the action is due, the copies named are delivered alone (R73). -/
theorem State.carryFiring_unheard {s : State} {ports : BitVec 4} (h : s.actionHeard ports = false) :
    s.carryFiring (.copies ports) = s.deliverCopies ports := by simp [State.carryFiring, h]

/-- A copy that arrives in a queue while the action is due brings the rest and the action with it (R74). -/
theorem State.carryFiring_heard {s : State} {ports : BitVec 4} (h : s.actionHeard ports = true) :
    s.carryFiring (.copies ports) = s.notifyAndAct := by simp [State.carryFiring, h]

/-- Without an action that is due, copies come and go by themselves. -/
theorem State.actionHeard_of_not_due {s : State} {f : FiringRecord} (hf : s.firing = some f) (ha : f.actionDue = false)
    (ports : BitVec 4) : s.actionHeard ports = false := by simp [State.actionHeard, hf, ha]

/-- The firing that is carried on stays in progress, with its record but for what is still due; nothing changes but the ports
and the output lines (R77). -/
theorem State.carryFiring_frame (upTo : FiringStage) (s : State) :
    ∃ ports firing outputs, s.carryFiring upTo = { s with ports, firing, outputs } ∧
      firing.map (fun f => { f with copiesDue := noWatchers, actionDue := false }) =
        s.firing.map fun f => { f with copiesDue := noWatchers, actionDue := false } := by
  have copies (sent : BitVec 4) (s : State) : ∃ ports firing, s.deliverCopies sent = { s with ports, firing } ∧
      firing.map (fun f => { f with copiesDue := noWatchers, actionDue := false }) =
        s.firing.map fun f => { f with copiesDue := noWatchers, actionDue := false } := by
    cases hf : s.firing with
    | none => exact ⟨s.ports, none, by simp only [State.deliverCopies, hf]; rw [← hf], rfl⟩
    | some f =>
      cases hk : f.noticeKind with
      | none => exact ⟨s.ports, some f, by simp only [State.deliverCopies, hf, hk]; rw [← hf], rfl⟩
      | some kind =>
        cases hr : s.held f.slot with
        | none => exact ⟨s.ports, some f, by simp only [State.deliverCopies, hf, hk, hr]; rw [← hf], rfl⟩
        | some r =>
          obtain ⟨ports, h, -⟩ := State.deliverCopies_of_firing hf hr hk sent
          exact ⟨ports, _, h, rfl⟩
  have action (s : State) : ∃ firing outputs, s.applyAction = { s with firing, outputs } ∧
      firing.map (fun f => { f with copiesDue := noWatchers, actionDue := false }) =
        s.firing.map fun f => { f with copiesDue := noWatchers, actionDue := false } := by
    unfold State.applyAction
    split
    · next f hf =>
      split
      · split
        · exact ⟨_, _, rfl, by rw [hf]; rfl⟩
        · exact ⟨s.firing, s.outputs, rfl, by rw [hf]⟩
      · exact ⟨s.firing, s.outputs, rfl, by rw [hf]⟩
    · exact ⟨s.firing, s.outputs, rfl, rfl⟩
  have both : ∃ ports firing outputs, s.notifyAndAct = { s with ports, firing, outputs } ∧
      firing.map (fun f => { f with copiesDue := noWatchers, actionDue := false }) =
        s.firing.map fun f => { f with copiesDue := noWatchers, actionDue := false } := by
    obtain ⟨p, f, h, hf⟩ := copies (BitVec.allOnes 4) s
    obtain ⟨f', o, h', hf'⟩ := action (s.deliverCopies (BitVec.allOnes 4))
    refine ⟨p, f', o, by rw [State.notifyAndAct, h', h], ?_⟩
    rw [hf', h]; exact hf
  cases upTo with
  | copies sent =>
    rw [State.carryFiring]
    split
    · exact both
    · obtain ⟨p, f, h, hf⟩ := copies sent s; exact ⟨p, f, s.outputs, h, hf⟩
  | action => exact both

/-! ## Release and teardown -/

theorem State.removeArmed_frame (n : SlotNo) (r : Reservation) (s : State) :
    ∃ queue, s.removeArmed n r = { s with queue } := by
  unfold State.removeArmed; split <;> exact ⟨_, rfl⟩

/-- A release touches the queue, the input lines, the phase of the Line Monitor, the watchers' ports, the slot and the
owner's owned count (R11). -/
theorem State.release_frame (n : SlotNo) (r : Reservation) (s : State) :
    ∃ queue inputs monitor ports slots quotas,
      s.release n r = { s with queue, inputs, monitor, ports, slots, quotas } := by
  unfold State.release
  dsimp only
  obtain ⟨q, hq⟩ := s.removeArmed_frame n r
  rw [hq]
  obtain ⟨i, m, hm⟩ := State.unbindMode_frame n r.mode { s with queue := q }
  rw [hm]
  obtain ⟨p, hp⟩ := State.deliverWatchers_frame
    (Notice.ofSlot .released n (State.slot { s with queue := q, inputs := i, monitor := m } n).generation r s.time)
    r.watchers { s with queue := q, inputs := i, monitor := m }
  rw [hp]
  exact ⟨_, _, _, _, _, _, rfl⟩

/-- A slot that is released is FREE and keeps its generation; no other slot changes (R11). -/
theorem State.slot_release (n m : SlotNo) (r : Reservation) (s : State) :
    (s.release n r).slot m = if m = n then { s.slot n with held := none } else s.slot m := by
  unfold State.release
  dsimp only
  obtain ⟨q, hq⟩ := s.removeArmed_frame n r
  rw [hq]
  obtain ⟨i, mo, hm⟩ := State.unbindMode_frame n r.mode { s with queue := q }
  rw [hm]
  obtain ⟨p, hp⟩ := State.deliverWatchers_frame
    (Notice.ofSlot .released n (State.slot { s with queue := q, inputs := i, monitor := mo } n).generation r s.time)
    r.watchers { s with queue := q, inputs := i, monitor := mo }
  rw [hp, State.slot_setQuota, State.slot_setSlot]
  rfl

/-- Where no teardown is in hand, nothing of one is left to take. -/
theorem State.teardownStep_of_none {s : State} (h : ∀ p close released lines on, s.engine ≠ .teardown p close released lines on) :
    s.teardownStep = s := by
  unfold State.teardownStep
  split
  · next p close released lines on he => exact absurd he (h p close released lines on)
  · rfl

/-- What the next operation of a teardown is (R164): authority, a wait, one slot operation, one output line, or the end. -/
theorem State.teardownStep_cases {s : State} {p : PortNo} {close : Bool} {released lines : Nat} {on : Option WaitFor}
    (h : s.engine = .teardown p close released lines on) :
    (s.authority = some p ∧
      s.teardownStep = { s with authority := none, engine := .teardown p close released lines none }) ∨
    (s.authority ≠ some p ∧
      ((∃ n, s.teardownSlot p = some n ∧
          ((∃ w, s.waitsFor (some n) = some w ∧
              s.teardownStep = { s with engine := .teardown p close released lines (some w) }) ∨
           (s.waitsFor (some n) = none ∧
              s.teardownStep = { (s.teardownOp p n).1 with
                engine := .teardown p close (released + (s.teardownOp p n).2) lines none }))) ∨
       (s.teardownSlot p = none ∧
          ((∃ l, (s.claimedLines p).head? = some l ∧
              s.teardownStep = { s.setOutput l (s.output l).free with
                engine := .teardown p close released (lines + 1) none }) ∨
           (s.claimedLines p = [] ∧ s.teardownStep = s.endTeardown p close released lines))))) := by
  unfold State.teardownStep
  simp only [h]
  by_cases ha : s.authority = some p
  · exact .inl ⟨ha, by rw [if_pos ha]⟩
  refine .inr ⟨ha, ?_⟩
  rw [if_neg ha]
  cases hn : s.teardownSlot p with
  | some n =>
    refine .inl ⟨n, rfl, ?_⟩
    dsimp only
    cases hw : s.waitsFor (some n) with
    | some w => exact .inl ⟨w, rfl, rfl⟩
    | none => exact .inr ⟨rfl, rfl⟩
  | none =>
    refine .inr ⟨rfl, ?_⟩
    dsimp only
    cases hl : s.claimedLines p with
    | nil => exact .inr ⟨rfl, rfl⟩
    | cons l ls => exact .inl ⟨l, rfl, rfl⟩

@[simp] theorem State.runTeardown_zero (s : State) : State.runTeardown 0 s = s := rfl

/-- Operation by operation through a teardown (R164): it goes on while there is a next operation that need not wait. -/
theorem State.runTeardown_succ (ops : Nat) (s : State) :
    ((∃ p close released lines, s.teardownStep.engine = .teardown p close released lines none) ∧
      State.runTeardown (ops + 1) s = State.runTeardown ops s.teardownStep) ∨
    ((∀ p close released lines, s.teardownStep.engine ≠ .teardown p close released lines none) ∧
      State.runTeardown (ops + 1) s = s.teardownStep) := by
  rw [State.runTeardown]
  split
  · next he => exact .inl ⟨⟨_, _, _, _, he⟩, rfl⟩
  · next hn => exact .inr ⟨fun p close released lines he => hn p close released lines he, rfl⟩

/-- The slot of a teardown's next operation is watched or owned by the port (R164). -/
theorem State.teardownSlot_some {s : State} {p : PortNo} {n : SlotNo} (h : s.teardownSlot p = some n) :
    s.watches p n = true ∨ s.owns p n = true := by
  unfold State.teardownSlot at h
  split at h
  · next m hm => cases h; exact .inl (List.find?_some hm)
  · exact .inr (List.find?_some h)

/-- A teardown with no slot left has a port that watches and owns none (R164). -/
theorem State.teardownSlot_none {s : State} {p : PortNo} (h : s.teardownSlot p = none) (n : SlotNo) :
    s.watches p n = false ∧ s.owns p n = false := by
  unfold State.teardownSlot at h
  split at h
  · cases h
  · next hm =>
    have h1 := List.find?_eq_none.1 hm n (List.mem_finRange n)
    have h2 := List.find?_eq_none.1 h n (List.mem_finRange n)
    simpa using And.intro h1 h2

/-! ## Ticks -/

/-- A tick that is due is taken without another sampling (R84, R103). -/
theorem State.tick_of_due {s : State} (h : s.tickDue = true) (pins : BitVec 8) (early : Nat) (doneFirst : Bool) :
    s.tick pins early doneFirst = s.takeTick early doneFirst := by simp [State.tick, h]

/-- With no tick due the tick event is that of a REFCLK edge that ends the division (R85). -/
theorem State.tick_of_next {s : State} (hd : s.tickDue = false) (h : s.tickNext = true) (pins : BitVec 8) (early : Nat)
    (doneFirst : Bool) : s.tick pins early doneFirst = (s.sampleInputs pins).takeTick early doneFirst := by
  simp [State.tick, hd, h]

/-- Where no tick is due and the next REFCLK edge does not end the division there is no tick event (R85). -/
theorem State.tick_of_none {s : State} (hd : s.tickDue = false) (h : s.tickNext = false) (pins : BitVec 8) (early : Nat)
    (doneFirst : Bool) : s.tick pins early doneFirst = s := by simp [State.tick, hd, h]

/-! ## The queue of commands -/

/-- A step takes the command at the front of the queue. -/
theorem step_cons {s : State} {c : Instr} {rest : List Instr} (h : s.pending = c :: rest) :
    step s = exec c { s with pending := rest } := by
  simp [step, h]

/-- While RSTn is asserted a command of the living part has no effect (R168). -/
theorem State.live_of_rstn {s : State} (h : s.rstn = true) (f : State → State) : s.live f = .next s := by
  simp [State.live, h]

theorem State.live_of_not_rstn {s : State} (h : s.rstn = false) (f : State → State) : s.live f = .next (f s) := by
  simp [State.live, h]

end Sys2Proof.Machine
end

