-- ==== Sys2Proof/Tests/Slice0.lean ====
section
/-! SUPPORT. The model's own tests: the refusals of WellFormed, one or two small tests of each command with expected values from the
spec's worked examples, and for each statement with hypotheses a witness that meets them. -/

namespace Sys2Proof.Tests

open Sys2Proof.Machine Sys2Proof.Claims

/-! ## Small states -/

/-- The part out of reset at this count, with the four ports OPEN in their first session. -/
def opened (time : Nat) : State :=
  { State.reset with
    time := BitVec.ofNat 64 time
    ports := Vector.replicate 4 { HostPort.reset with session := .opened, sessionNumber := 1 } }

/-- The state that a command leaves. -/
def after (c : Instr) (s : State) : State :=
  match exec c s with
  | .next t => t
  | .fault f => nomatch f
  | .refused _ => s

/-- The engine has this request of port `p` in hand. -/
def request (p : PortNo) (c : Req) (params : List Byte) (s : State) : State :=
  { s.setPort p { s.port p with request := .executing { code := c.code, params } } with engine := .granted p }

/-- The status and results that port `p` holds. -/
def held (s : State) (p : PortNo) : Option (Status × List Byte) :=
  match (s.port p).request with
  | .done r => some (r.status, r.results)
  | _ => none

/-- A slot of this owner in this mode and state. -/
def slotOf (owner : PortNo) (mode : Mode) (run : Run) : Reservation := { Reservation.fresh owner with mode, run }

/-- Slot `n` reserved as `r`, in its first generation. -/
def put (n : SlotNo) (r : Reservation) (s : State) : State := s.setSlot n { generation := 1, held := some r }

/-- The port with this link. -/
def linked (p : PortNo) (link : Link) (s : State) : State := s.setPort p { s.port p with link }

/-- What the port's link answers. -/
def answer (s : State) (p : PortNo) : Option (List Byte) :=
  match (s.port p).link with
  | .selected (.replying reply) => some reply
  | .selected (.fetching reply) => some reply
  | _ => none

/-- The kinds of the notices that port `p` holds. -/
def kinds (s : State) (p : PortNo) : List NoticeKind := (s.port p).notices.map fun e => e.notice.kind

/-- The newest notice of port `p`. -/
def newest (s : State) (p : PortNo) : Option Notice := (s.port p).notices.getLast?.map fun e => e.notice

/-- The state in which slot `n` stands. -/
def runOf (s : State) (n : SlotNo) : Option Run := (s.held n).map fun r => r.run

/-- `k` notices from seq `first` on. -/
def notices (first k : Nat) : List Stored :=
  (List.range k).map fun i => { seq := BitVec.ofNat 16 (first + i), notice := Notice.bare .stepped 0 0 1 }

/-! ## WellFormed, decoding -/

theorem test_wf_submit_short : Instr.wellFormed (.submit 0 [0x11, 2, 5]) = false := by decide
theorem test_wf_submit_long : Instr.wellFormed (.submit 0 [0x11, 1, 5, 0]) = false := by decide
theorem test_wf_submit : Instr.wellFormed (.submit 0 [0x11, 1, 5]) = true := by decide
theorem test_wf_donothing : Instr.wellFormed (.doNothingTransaction 0 0x51) = false := by decide
theorem test_wf_tick : Instr.wellFormed (.tickEvent 0 9 false) = false := by decide
theorem test_wf_slewEnd : Instr.wellFormed (.slewEnd 0 9 false) = false := by decide
theorem test_wf_close : Instr.wellFormed (.closeSession (some 139)) = false := by decide
theorem test_wf_grant : Instr.wellFormed (.portArbiterGrant (some 139)) = false := by decide
theorem test_wf_second_pause : Instr.wellFormed (.secondStageOperation .engine (some 139)) = false := by decide
theorem test_wf_second_client : Instr.wellFormed (.secondStageOperation .lineMonitor (some 0)) = false := by decide
theorem test_wf_second_early :
    Instr.wellFormed (.secondStageOperation .engine none 1) = false ∧
      Instr.wellFormed (.secondStageOperation .lineMonitor none 9) = false := by decide
theorem test_wf_recordTake : Instr.wellFormed (.recordTake 9) = false := by decide
theorem test_wf_edgeApplication : Instr.wellFormed (.edgeApplication 9) = false := by decide
theorem test_wf_insertCompletion : Instr.wellFormed (.insertCompletion 9) = false := by decide

/-- No row of the table has bits. -/
theorem test_decode_none : decodeTableWord 8 0x51 = none := by decide

/-- R170: the selectors 0x51 to 0x56 in the order of the table; 0x00 and 0xFF name nothing; an ACK's seq, high byte first. -/
theorem test_selectors :
    [0x51, 0x52, 0x53, 0x54, 0x55, 0x56, 0x00, 0xFF].map Selector.ofCode =
      [some .submit, some .fetch, some .peek, some .ack, some .time, some .portstat, none, none] := by decide
theorem test_decode_submit : decodeTransaction 2 [0x51, 0x11, 1, 5, 99] = some (.submit 2 [0x11, 1, 5]) := by decide
theorem test_decode_submit_short : decodeTransaction 2 [0x51, 0x11, 2, 5] = none := by decide
theorem test_decode_ack : decodeTransaction 1 [0x54, 0x01, 0x02] = some (.ack 1 (0x01, 0x02)) := by decide
theorem test_ackSeq : ackSeq (0x01, 0x02) = 0x0102 := by decide

/-- Each request code of R171 names its request. -/
theorem test_codes : Req.all.map (fun c => Req.ofCode c.code) = Req.all.map some := by decide

/-- Section 8.8: steps take the commands in order; HP0's RESERVE of a FREE part is slot 0. -/
theorem test_step_order :
    (match step { request 0 .reserve [] (opened 0) with pending := [.reserve, .recordTake] } with
      | .next t => (t.pending, held t 0)
      | _ => ([], none)) = ([.recordTake], some (.ok, [0, 0, 1])) := by decide

/-! ## Sessions and slots (sections 1.7, 9.6, 11.4) -/

/-- Section 9.6: HP2's OPEN at count 700, quota 8. -/
theorem test_open :
    held (after .openSession (request 2 .openSession []
      { State.reset with time := 700, quotas := Vector.ofFn fun p => { quota := strapQuota 1 p, owned := 0 } })) 2 =
      some (.ok, [1, 8, 0, 0, 0, 0, 0, 0, 0, 2, 188]) := by decide
theorem test_open_again : held (after .openSession (request 2 .openSession [] (opened 5))) 2 = some (.state, [1]) := by
  decide

/-- Section 11.4: HP1 owns slots 20 and 21 and claims output line 5, HIGH with idle level LOW. -/
def watched : State :=
  let s := put 20 { slotOf 1 (.periodic 500 0) (.armed 30000 none) with
    share := .opn, watchers := #v[false, false, false, true] } (opened 29995)
  let s := put 21 (slotOf 1 (.gated 2 .high none 0) .idle) s
  let s := put 2 { slotOf 0 .oneShot .idle with share := .opn, watchers := #v[false, true, false, false] } s
  let s := s.setInput 2 { s.input 2 with bindings := [21] }
  let s := s.setOutput 5 { level := .high, claim := some 1, idleLevel := .low }
  let s := s.setQuota 1 { quota := 16, owned := 2 }
  { s with queue := [{ slot := 20, deadline := 30000 }] }

theorem test_close :
    (fun t : State => (held t 1, (t.port 1).session, t.queue, t.output 5, (t.input 2).bindings, kinds t 3))
      (after (.closeSession none) (request 1 .closeSession [] watched)) =
      (some (.ok, [1, 2, 1]), .detached, [], { level := .low, claim := none, idleLevel := .low }, [], [.released]) := rfl
theorem test_close_pause :
    (after (.closeSession (some 1)) (request 1 .closeSession [] watched)).engine = .teardown 1 true 0 0 none := by decide

/-- Section 11.4: the teardown of HP1 stands after step 4, 5 or 6 for `ops` of 3, 4 or 5. -/
def stage (ops : Nat) : State := after (.closeSession (some ops)) (request 1 .closeSession [] watched)

/-- Section 11.4, after step 4: CLOSING with owned 0, and line 5 still HIGH; a SUBMIT is answered CLOSING (R165). -/
theorem test_close_released :
    answer (after (.portstat 1) (linked 1 (.selected .opened) (stage 3))) 1 = some [0x01, 2, 1, 2, 0, 0, 16, 0] ∧
    answer (after (.submit 1 [0x01, 0]) (linked 1 (.selected .opened) (stage 3))) 1 = some [0x05] ∧
    (stage 3).output 5 = { level := .high, claim := some 1, idleLevel := .low } := by decide
theorem test_close_lines :
    (fun t : State => ((t.port 1).session, t.output 5)) (stage 4) =
      (.closing, { level := .low, claim := none, idleLevel := .low }) := by decide
theorem test_close_last :
    (fun t : State => ((t.port 1).session, held t 1)) (after (.secondStageOperation .engine (some 1)) (stage 4)) =
      (.detached, some (.ok, [1, 2, 1])) := by decide
/-- R91 and R164: the holder becomes none in step 2, which a teardown may be met before (R165). -/
theorem test_close_authority :
    let s := { request 1 .closeSession [] (opened 0) with authority := some 1 }
    (after (.closeSession (some 0)) s).authority = some 1 ∧ (after (.closeSession (some 1)) s).authority = none := by decide

/-- Section 1.7: HP2, quota 8 and owned 8, is answered NO_QUOTA; the lowest FREE slot 3 of generation 3 becomes 4. -/
theorem test_reserve_no_quota :
    held (after .reserve (request 2 .reserve [] ((opened 0).setQuota 2 { quota := 8, owned := 8 }))) 2 =
      some (.noQuota, []) := by decide
theorem test_reserve_generation :
    held (after .reserve (request 0 .reserve []
      ([0, 1, 2].foldl (fun s n => put n (slotOf 2 .oneShot .idle) s)
        ((opened 0).setSlot 3 { generation := 3, held := none })))) 0 = some (.ok, [3, 0, 4]) := by decide

/-- Section 1.7: HP2's slot 3, ARMED and OPEN, generation 3. -/
def shared (watchers : Vector Bool 4) : State :=
  { (opened 100).setSlot 3 { generation := 3, held := some { slotOf 2 .oneShot (.armed 900 none) with share := .opn, watchers } }
    with queue := [{ slot := 3, deadline := 900 }] }

theorem test_release :
    (fun t : State => (held t 2, t.queue, t.held 3, (newest t 1).map fun n => (n.kind, n.slot, n.generation, n.watched)))
      (after .release (request 2 .release [3] (shared #v[false, true, false, false]))) =
      (some (.ok, [3, 0, 3]), [], none, some (.released, some 3, some 3, true)) := rfl
theorem test_setShare :
    (fun t : State => (held t 2, kinds t 1, kinds t 2))
      (after .setShare (request 2 .setShare [3, 0] (shared #v[false, true, false, false]))) =
      (some (.ok, [0]), [.unwatched], []) := by decide
theorem test_watch :
    held (after .watch (request 1 .watch [3] (shared noWatchers))) 1 = some (.ok, [0, 3, 2]) := by decide
theorem test_watch_own : held (after .watch (request 2 .watch [3] (shared noWatchers))) 2 = some (.badParam, []) := by
  decide
theorem test_unwatch :
    (fun t : State => (held t 1, (t.held 3).map fun r => r.watchers))
      (after .unwatch (request 1 .unwatch [3] (shared #v[false, true, false, true]))) =
      (some (.ok, []), some #v[false, false, false, true]) := by decide
theorem test_unwatch_state : held (after .unwatch (request 1 .unwatch [3] (shared noWatchers))) 1 = some (.state, []) := by
  decide
theorem test_query :
    (held (after .query (request 0 .query [3] (shared #v[false, true, false, false]))) 0).map (fun h => h.2.take 12) =
      some [3, 2, 2, 1, 2, 0, 3, 0, 0, 0, 0, 1] := by decide

/-- Section 1.7, steps 4 and 6. -/
theorem test_giveQuota :
    held (after .giveQuota (request 0 .giveQuota [2, 4] ((opened 0).setQuota 0 { quota := 32, owned := 5 }))) 0 =
      some (.ok, [28, 5]) := by decide
theorem test_giveQuota_short :
    held (after .giveQuota (request 2 .giveQuota [0, 5] ((opened 0).setQuota 2 { quota := 12, owned := 9 }))) 2 =
      some (.noQuota, []) := by decide

/-! ## CONFIGURE, ARM, DISARM (sections 3.8, 6.9, 10.6, 11.1) -/

/-- Section 3.8: slot 20 becomes GATED on input line 3, active level HIGH. -/
theorem test_configure :
    (fun t : State => (held t 1, (t.input 3).bindings, (t.held 20).map fun r => r.mode))
      (after .configure (request 1 .configure
        ([20, 3, 3, 1, 0, 0, 0, 0] ++ List.replicate 14 0 ++ [0, 0, 0, 9, 0, 0])
        (put 20 (slotOf 1 .oneShot .idle) (opened 0)))) =
      (some (.ok, [20, 0, 1]), [20], some (.gated 3 .high none 0)) := by decide

/-- Section 6.9: an output action needs a line that the owner claims. -/
theorem test_configure_not_claimed :
    held (after .configure (request 0 .configure ([9, 1] ++ List.replicate 24 0 ++ [2, 1])
      (put 9 (slotOf 0 .oneShot .idle) (opened 0)))) 0 = some (.notClaimed, []) := by decide

/-- Section 10.6: the ARM of slot 6 at count 9000, 250 ticks ahead: deadline 9250 = 0x2422, now 9000 = 0x2328. -/
theorem test_arm :
    held (after .arm (request 0 .arm [6, 2, 1, 0, 0, 0, 0, 0, 0, 0, 250, 0, 0, 0, 0]
      (put 6 (slotOf 0 (.periodic 100 0) .idle) (opened 9000)))) 0 =
      some (.ok, [0, 2, 2, 0, 0, 0, 0, 0, 0, 0x24, 0x22, 0, 0, 0, 0, 0, 0, 0, 0, 0, 0, 0x23, 0x28]) := by decide

/-- Section 10.6: with form 3 and a duration of 100 the form does not suit PERIODIC, and the slot keeps its generation. -/
theorem test_arm_form :
    (fun t : State => (held t 0, (t.slot 6).generation))
      (after .arm (request 0 .arm [6, 3, 0, 0, 0, 0, 0, 0, 0, 0, 0, 0, 0, 0, 100]
        (put 6 (slotOf 0 (.periodic 100 0) .idle) (opened 9000)))) = (some (.badParam, []), 1) := by decide

/-- Section 11.1: REMOVE of slot 8 at count 21 000. -/
def shared8 (run : Run) : State :=
  { (opened 21000).setSlot 8 { generation := 5, held := some { slotOf 0 (.periodic 1000 0) run with
      share := .opn, watchers := #v[false, false, true, false], fireCount := 1 } } with
    queue := [{ slot := 8, deadline := 21000 }] }

theorem test_disarm :
    (fun t : State => (held t 0, runOf t 8, (newest t 2).map fun n => (n.generation, n.ref, n.value, n.watched)))
      (after .disarm (request 0 .disarm [8] (shared8 (.armed 21000 none)))) =
      (some (.ok, [0, 1, 2]), some .idle, some (some 5, some 21000, some 1, true)) := rfl
theorem test_disarm_waits :
    (after .disarm (request 0 .disarm [8] (shared8 (.firing 21000 none)))).engine =
      .waiting 0 (.disarm 8) (.firing 8) := by decide

/-! ## The timebase (sections 4.8, 5.8, 11.2, 11.5) -/

theorem test_takeAuthority :
    (fun t : State => (held t 0, t.authority)) (after .takeAuthority (request 0 .takeAuthority [] (opened 12007))) =
      (some (.ok, [0]), some 0) := by decide
theorem test_yieldAuthority :
    (fun t : State => (held t 2, t.authority))
      (after .yieldAuthority (request 2 .yieldAuthority [] { opened 12007 with authority := some 2 })) =
      (some (.ok, []), none) := by decide

/-- Section 4.8: the STEP of 2500 at 5010. Section 11.5: a STEP while a slew applies. -/
theorem test_stepTime :
    (fun t : State => (t.time, (newest t 1).map fun n => (n.eventTime, n.ref, n.value, n.big)))
      (after .stepTime (request 3 .stepTime [0, 0, 0, 0, 0, 0, 0x09, 0xC4] { opened 5010 with authority := some 3 })) =
      (7510, some (7510, some 5010, some 2500, false)) := by decide

/-- Section 5.8: SLEW(3, 8) at count 2000. -/
def slewing (remaining : Int) (ticksRemaining accumulator : Nat) : Slew :=
  { initiator := 3, amount := 3, span := 8, remaining, ticksRemaining, accumulator, startCount := 2000 }

theorem test_stepTime_slewing :
    held (after .stepTime (request 3 .stepTime [0, 0, 0, 0, 0, 0, 0, 50]
      { opened 2001 with authority := some 3, slew := some (slewing 3 7 3) })) 3 = some (.slewing, []) := by decide
theorem test_slew :
    (fun t : State => (held t 3, t.slew))
      (after .slew (request 3 .slew [0, 0, 0, 3, 0, 0, 0, 8] { opened 2000 with authority := some 3 })) =
      (some (.ok, [0, 0, 0, 0, 0, 0, 0x07, 0xD0]), some (slewing 3 8 0)) := by decide
theorem test_slew_range :
    held (after .slew (request 3 .slew [0xFF, 0xFF, 0xFF, 0xFB, 0, 0, 0, 4] { opened 0 with authority := some 3 })) 3 =
      some (.badParam, []) := by decide
theorem test_cancelSlew :
    (fun t : State => (held t 3, t.slew, (newest t 3).map fun n => (n.eventTime, n.ref, n.value)))
      (after .cancelSlew (request 3 .cancelSlew [] { opened 2005 with authority := some 3, slew := some (slewing 2 4 4) })) =
      (some (.ok, [0, 0, 0, 2]), none, some (2005, some 2000, some 2)) := rfl
theorem test_setDivisor :
    (fun t : State => (held t 3, t.divisor, t.pendingDivisor))
      (after .setDivisor (request 3 .setDivisor [0x10, 0] { opened 0 with authority := some 3 })) =
      (some (.ok, [0x10, 0]), 1, some 4096) := by decide

/-- Section 5.8, tick 3 and tick 8. -/
theorem test_tick :
    (fun t : State => (t.time, t.slew))
      (after (.tickEvent 0 0 false) { opened 2002 with slew := some (slewing 3 6 6) }) =
      (2004, some (slewing 2 5 1)) := by decide
theorem test_slewEnd :
    (fun t : State => (t.time, t.slew, (newest t 3).map fun n => (n.eventTime, n.ref, n.value)))
      (after (.slewEnd 0 0 true) { opened 2009 with slew := some (slewing 1 1 5) }) =
      (2011, none, some (2011, some 2000, some 0)) := by decide

/-- R85: with the divisor at 3 the third rising edge is the tick event; a pin reaches the second stage at its second edge. -/
theorem test_refclk :
    (fun t : State => (t.time, t.divider, (t.input 7).stage2, (t.input 7).synchronized))
      (after (.refclkRisingEdge 0x80) (after (.refclkRisingEdge 0x80) { opened 5 with divisor := 3 })) =
      (5, 2, .high, .low) := by decide
theorem test_refclk_tick :
    (fun t : State => (t.time, t.divider)) (after (.refclkRisingEdge 0) { opened 5 with divisor := 3, divider := 2 }) =
      (6, 0) := by decide

/-- Section 7.6, at 50 210: two notices below the threshold of 4, holdoff 200. -/
theorem test_holdoffExpired :
    ((after (.holdoffExpired 1) ((opened 50210).setPort 1 { (opened 50210).port 1 with
      notices := notices 0 2, threshold := 4, holdoff := 200, holdoffCounter := 200 })).port 1).attn = true := by decide

/-! ## Lines (sections 6.8, 6.9, 3.8, 11.3) -/

/-- Section 6.9. -/
def claimed (level idleLevel : Level) (s : State) : State := s.setOutput 2 { level, claim := some 0, idleLevel }

theorem test_claim :
    (fun t : State => (held t 0, t.output 2)) (after .claimOutput (request 0 .claimOutput [2, 1] (opened 0))) =
      (some (.ok, [2, 0, 1]), { level := .low, claim := some 0, idleLevel := .high }) := by decide
theorem test_claim_held :
    held (after .claimOutput (request 1 .claimOutput [2, 0] (claimed .low .high (opened 0)))) 1 =
      some (.lineHeld, [0]) := by decide
theorem test_drive :
    (fun t : State => (held t 0, t.output 2))
      (after .driveOutput (request 0 .driveOutput [2, 0] (claimed .high .high (opened 0)))) =
      (some (.ok, [0]), { level := .low, claim := some 0, idleLevel := .high }) := by decide
theorem test_releaseOutput_bound :
    held (after .releaseOutput (request 0 .releaseOutput [2]
      (put 9 { slotOf 0 .oneShot .idle with action := some { line := 2, action := .set } }
        (claimed .low .high (opened 0))))) 0 = some (.lineBound, []) := by decide
theorem test_releaseOutput :
    (fun t : State => (held t 0, t.output 2))
      (after .releaseOutput (request 0 .releaseOutput [2] (claimed .low .high (opened 0)))) =
      (some (.ok, [1]), { level := .high, claim := none, idleLevel := .high }) := by decide

/-- Section 6.8: line 6, with slots 40 and 41 bound, and this FIFO. -/
def busy (stage2 synchronized : Level) (lost : Byte) (fifo : List EdgeRecord) (time : Nat) : State :=
  let s := put 40 (slotOf 2 (.gated 6 .high none 0) (.armed 9000 none)) (opened time)
  let s := put 41 (slotOf 3 (.triggered 6 .rise 50 none 0 false true) .waiting) s
  let s := s.setInput 6 { s.input 6 with stage2, synchronized, processed := .high, bindings := [40, 41], lost }
  { s with fifo, queue := [{ slot := 40, deadline := 9000 }] }

/-- A record of line 1. -/
def burst : EdgeRecord := { line := 1, direction := .rise, timestamp := 7990, kind := .edge }

/-- The record of line 6 that falls at 8003. -/
def fall : EdgeRecord := { line := 6, direction := .fall, timestamp := 8003, kind := .edge }

theorem test_edge_enters :
    (fun t : State => (t.fifo.getLast?, t.fifo.length, (t.input 6).processed))
      (after (.edgeRecognized 6) (busy .low .high 0 (List.replicate 15 burst) 8003)) = (some fall, 16, .high) := by decide
theorem test_edge_dropped :
    (fun t : State => (t.fifo.length, (t.input 6).synchronized, (t.input 6).lost, (t.input 6).owed))
      (after (.edgeRecognized 6) (busy .high .low 0 (List.replicate 16 burst) 8005)) = (16, .high, 1, true) := by decide
theorem test_record_take :
    (fun t : State => ((newest t 2).map fun n => (n.slot, n.eventTime, n.ref, n.value), kinds t 3, (t.input 6).lost,
        (t.input 6).processed, t.monitor))
      (after .recordTake (busy .low .low 2 [fall] 8040)) =
      (some (some 40, 8040, some 8003, some 2), [.edgeLost], 0, .low, .applying [40, 41] false) := rfl
theorem test_level_record_set :
    (after .recordTake (busy .low .low 0 [{ fall with timestamp := 8009, kind := .level }] 8040)).monitor =
      .applying [40] false := by decide
theorem test_gate_closes :
    (fun t : State => (runOf t 40, t.queue, t.monitor))
      (after .edgeApplication { busy .low .low 0 [fall] 8040 with monitor := .applying [40, 41] false }) =
      (some (.paused 997), [], .applying [41] false) := by decide

/-- Section 6.8: the record of line 2 leaves, and the free place goes to line 6, whose level is owed. -/
theorem test_level_owed :
    (fun t : State => (t.fifo, (t.input 6).owed, (t.input 6).lost))
      (State.recordLeaves 0 ((busy .low .low 2 [burst, fall] 8009).setInput 6
        { (busy .low .low 2 [] 0).input 6 with owed := true })) =
      ([fall, { fall with timestamp := 8009, kind := .level }], false, 2) := by decide

/-- R108: at a full FIFO, line 7 owed and an edge of line 6 waiting, the record of line 1 in hand leaves. With the leaving taken first
line 7 gets the place and the edge is then dropped; with the recognition first the edge gets it and line 7 waits. -/
def crowded : State :=
  let s := busy .low .high 0 (List.replicate 16 burst) 8009
  { s.setInput 7 { s.input 7 with bindings := [9], owed := true, lost := 1 } with monitor := .applying [] false }

theorem test_leaving_first :
    (fun t : State => (t.fifo.getLast?.map fun r => (r.line, r.kind), t.fifo.length, (t.input 7).owed, (t.input 6).owed,
        (t.input 6).lost))
      (after (.edgeRecognized 6) (after .edgeApplication crowded)) = (some (7, .level), 16, false, true, 1) := by decide
theorem test_recognition_first :
    (fun t : State => (t.fifo.getLast?.map fun r => (r.line, r.kind), t.fifo.length, (t.input 7).owed, (t.input 6).owed,
        (t.input 6).lost))
      (after (.edgeApplication 7) crowded) = (some (6, .edge), 16, true, false, 0) := by decide

/-- R84, R103 and R108: at a REFCLK edge that is a tick event line 6 falls; its edge takes the place that a record leaves, ahead of the owed
line 7, and the tick comes after it. -/
theorem test_tick_after_leaving :
    (fun t : State => (t.fifo.getLast?.map fun r => (r.line, r.timestamp), (t.input 7).owed, t.time, t.tickDue))
      (after (.tickEvent 0 0 false) (after (.edgeApplication 7) (after (.refclkRisingEdge 0 true)
        { crowded with inputs := crowded.inputs.set 6 { crowded.input 6 with stage2 := .high } }))) =
      (some (6, 8009), true, 8010, false) := by decide
/-- R84, R92 and R103: the edge is recognized, then HP3 steps the count by 2500, and then the tick comes. -/
theorem test_step_before_tick :
    (fun t : State => (t.fifo, held t 3, t.time))
      (after (.tickEvent 0 0 false) (after .stepTime (request 3 .stepTime [0, 0, 0, 0, 0, 0, 0x09, 0xC4]
        { after (.edgeRecognized 6) (after (.refclkRisingEdge 0 true) (busy .high .high 0 [] 8003)) with authority := some 3 }))) =
      ([fall], some (.ok, bytesBE 8 8003 ++ bytesBE 8 10503), 10504) := by decide
/-- R85: a tick that is due is taken ahead of the next REFCLK edge. -/
theorem test_tick_due :
    (fun t : State => (t.time, t.divider, t.tickDue))
      (after (.refclkRisingEdge 0) { opened 5 with divisor := 3, divider := 2, tickDue := true }) = (6, 1, false) := by decide

/-- Section 11.3: the RISE at 4000 closes the window opened at 3000 and opens the next. -/
def measuring (run : Run) (timestamp : TimeCount) : State :=
  let s := put 12 (slotOf 3 (.window 4 .rise .rise 1500 { short := true, long := true, ends := true } true) run)
    (opened 8490)
  let s := s.setInput 4 { s.input 4 with bindings := [12], processed := .high }
  { s with fifo := [{ line := 4, direction := .rise, timestamp, kind := .edge }], monitor := .applying [12] false }

theorem test_window_short :
    (fun t : State => (runOf t 12, (newest t 3).map fun n => (n.kind, n.eventTime, n.ref, n.value, n.count, n.final)))
      (after .edgeApplication { measuring (.armed 4500 (some 3000)) 4000 with queue := [{ slot := 12, deadline := 4500 }] }) =
      (some (.armed 5500 (some 4000)), some (.windowShort, 4000, some 3000, some 1000, some 0, false)) := rfl
theorem test_window_end :
    (fun t : State => ((newest t 3).map fun n => (n.kind, n.eventTime, n.ref, n.value), t.queue))
      (after .edgeApplication (measuring (.lapsed 5100) 7000)) =
      (some (.windowEnd, 7000, some 5100, some 1900), [{ slot := 12, deadline := 8500 }]) := by decide

/-! ## Dispatch (sections 2.9, 3.8, 4.8) -/

/-- Section 4.8: HP0's slot 4, due at 7510. -/
def catchUp : State :=
  let r := { slotOf 0 (.periodic 300 0) (.armed 5200 none) with
    fireCount := 2, watchers := #v[false, true, false, false], share := .opn,
    action := some { line := 2, action := .toggle } }
  let s := put 4 r (claimed .low .low (opened 7510))
  let s := put 7 (slotOf 1 .oneShot (.armed 5600 none)) s
  let s := put 11 { slotOf 2 (.periodic 1000 2) (.armed 5900 none) with fireCount := 1 } s
  { s with queue := [{ slot := 4, deadline := 5200 }, { slot := 7, deadline := 5600 }, { slot := 11, deadline := 5900 }] }

theorem test_takeHead :
    (fun t : State => (t.firing.map fun f =>
        (f.late, f.periodsPassed, f.periodsCounted, f.missed, f.fireCount, f.final, f.nextDeadline)))
      (after .takeHead catchUp) = some (2310, 8, 8, 7, 10, false, some 7600) := rfl
theorem test_takeHead_effects :
    (fun t : State => ((newest t 1).map fun n => (n.value, n.count, n.missed, n.late, n.watched), kinds t 0,
        (t.output 2).level, runOf t 4))
      (after .takeHead catchUp) =
      (some (some 2310, some 10, some 7, true, true), [.expired], .high, some (.firing 5200 none)) := rfl
theorem test_settling :
    (fun t : State => (t.insertion.map fun i => i.deadline, runOf t 4, t.firing.isSome))
      (after .settling (after .takeHead catchUp)) = (some 7600, some (.firing 5200 none), true) := by decide
theorem test_settling_idle :
    (fun t : State => (runOf t 20, t.firing))
      (after .settling (after .takeHead { put 20 (slotOf 1 (.gated 3 .high none 0) (.armed 11250 none)) (opened 11250) with
        queue := [{ slot := 20, deadline := 11250 }] })) = (some .idle, none) := by decide
theorem test_insertCompletion :
    (fun t : State => (t.queue.map fun e => (e.slot, e.deadline), runOf t 4, t.firing))
      (after .insertCompletion (after .settling (after .takeHead catchUp))) =
      ([(7, 5600), (11, 5900), (4, 7600)], some (.armed 7600 none), none) := by decide

/-- R77, R93 and R133: a firing taken at 7510 and still to deliver when HP3 steps the count by 2500 delivers after STEPPED, with an event
time below its ref. -/
theorem test_delivers_after_stepped :
    (fun t : State => ((t.port 1).notices.map fun e => (e.notice.kind, e.notice.eventTime, e.notice.ref), (t.output 2).level))
      (after (.settling (some .action))
        (after .stepTime (request 3 .stepTime [0, 0, 0, 0, 0, 0, 0x09, 0xC4]
          { after (.takeHead (.copies 0)) catchUp with authority := some 3 }))) =
      ([(.stepped, 10010, some 7510), (.expired, 7510, some 5200)], .high) := rfl
/-- R73 and R77: a firing without an action pauses between two copies. -/
theorem test_takeHead_pauses :
    (fun t : State => (kinds t 0, kinds t 1, t.firing.map fun f => (f.copiesDue, f.actionDue)))
      (after (.takeHead (.copies 0b0001)) (catchUp.setHeld 4 { slotOf 0 (.periodic 300 0) (.armed 5200 none) with
        watchers := #v[false, true, false, false], share := .opn })) =
      ([.expired], [], some (#v[false, true, false, false], false)) := rfl
/-- R74: a host that finds the notice in its queue finds the action applied. -/
theorem test_action_with_notice :
    (fun t : State => (kinds t 0, kinds t 1, (t.output 2).level, t.firing.map fun f => (f.copiesDue, f.actionDue)))
      (after (.takeHead (.copies 0b0001)) catchUp) = ([.expired], [.expired], .high, some (noWatchers, false)) := rfl

/-- Section 2.9, steps 3 and 4: slot 14 stands behind slot 2, whose deadline is equal; slot 5 stands between. -/
theorem test_insert_order :
    (placeEntry { slot := 5, deadline := 1150 } (placeEntry { slot := 14, deadline := 1200 }
      [{ slot := 9, deadline := 1100 }, { slot := 2, deadline := 1200 }])).map (fun e => e.slot) = [9, 5, 2, 14] := by decide

/-! ## The engine (section 8.8) -/

/-- Section 8.8: the pointer is 2, HP2's teardown is pending, HP0 and HP3 are QUEUED. -/
def queued : State :=
  let s := opened 0
  let s := s.setPort 0 { s.port 0 with request := .queued { code := 0x10, params := [] } }
  let s := s.setPort 3 { s.port 3 with request := .queued { code := 0x30, params := [] } }
  let s := s.setPort 2 { s.port 2 with teardownPending := true }
  { put 31 (slotOf 2 .oneShot .idle) s with pointer := 2 }

theorem test_grant_teardown :
    (fun t : State => (t.pointer, (t.port 2).session, t.held 31, t.engine)) (after (.portArbiterGrant none) queued) =
      (3, .detached, none, .free) := by decide
theorem test_grant_request :
    (fun t : State => (t.pointer, t.engine))
      (after (.portArbiterGrant none) (after (.portArbiterGrant none) queued)) = (0, .granted 3) := by decide
theorem test_second_stage :
    (fun t : State => (held t 0, runOf t 8, t.queue))
      (after (.secondStageOperation .engine none)
        { request 0 .disarm [8] (shared8 (.armed 21000 none)) with engine := .waiting 0 (.disarm 8) (.firing 8) }) =
      (some (.ok, [0, 1, 2]), some .idle, []) := by decide

/-! ## Notices and links (sections 7.6, 9.6, 5.8) -/

/-- Section 7.6. -/
theorem test_setAttention :
    (fun t : State => ((t.port 1).threshold, (t.port 1).holdoff, held t 1))
      (after .setAttention (request 1 .setAttention [4, 0, 200] (opened 50000))) = (4, 200, some (.ok, [4, 0, 200])) := by
  decide

/-- HP1's queue in section 7.6, with the link open. -/
def reading (list : List Stored) (nextSeq : Half) : State :=
  linked 1 (.selected .opened) ((opened 60050).setPort 1 { (opened 60050).port 1 with notices := list, nextSeq, threshold := 4 })

theorem test_ack :
    (fun t : State => ((t.port 1).notices.head?.map fun e => e.seq, (t.port 1).notices.length, answer t 1))
      (after (.ack 1 (0, 10)) (reading (notices 2 32) 34)) = (some 11, 23, some [0x01]) := by decide
theorem test_ack_stale : answer (after (.ack 1 (0, 1)) (reading (notices 2 32) 34)) 1 = some [0x09] := by decide

/-- Section 7.6, at 60 031 and 60 040: the 32nd arrival raises OVERFLOW, and five more are counted into it. -/
theorem test_overflow :
    (fun x : HostPort => (x.notices.length, x.nextSeq, x.notices.getLast?.map fun e => (e.notice.kind, e.notice.value, e.notice.ref)))
      ((HostPort.arrive 60040 (Notice.bare .stepped 0 0 1))^[5]
        (HostPort.arrive 60031 (Notice.bare .stepped 0 0 1) ((reading (notices 2 31) 33).port 1))) =
      (32, 34, some (.overflow, some 6, some 60040)) := by decide
theorem test_peek :
    (answer (after (.peek 1 22) (reading (notices 11 23) 34)) 1).map (fun r => (r.length, r.take 4)) =
      some (37, [0x01, 0, 33, 9]) := by decide
theorem test_peek_empty : (answer (after (.peek 1 23) (reading (notices 11 23) 34)) 1).map (fun r => r.head?) =
    some (some 0x08) := by decide
theorem test_submit :
    (fun t : State => (answer t 0, (t.port 0).request))
      (after (.submit 0 [0x11, 1, 5, 99]) (linked 0 (.selected .opened) (opened 0))) =
      (some [0x02], .queued { code := 0x11, params := [5] }) := by decide
theorem test_submit_busy :
    answer (after (.submit 0 [0x15, 1, 8]) (linked 0 (.selected .opened) (request 0 .reserve [] (opened 0)))) 0 =
      some [0x03] := by decide
theorem test_fetch :
    answer (after (.fetch 0) (linked 0 (.selected .opened) (after .reserve (request 0 .reserve [] (opened 0))))) 0 =
      some [0x01, 0x10, 0x00, 3, 0, 0, 1] := by decide
theorem test_fetch_none : answer (after (.fetch 0) (linked 0 (.selected .opened) (opened 0))) 0 = some [0x07] := by decide

/-- A FETCH of the RESERVE response, answered and not yet read out. -/
def fetching : State :=
  after (.fetch 0) (linked 0 (.selected .opened) (after .reserve (request 0 .reserve [] (opened 0))))

theorem test_fetchEnd : ((after (.fetchEnd 0) fetching).port 0).request = .idle := by decide
theorem test_negation_keeps_response :
    (fun t : State => (held t 0, (t.port 0).link)) (after (.chipSelectNegation 0) fetching) =
      (some (.ok, [0, 0, 1]), .idle) := by decide
theorem test_time :
    answer (after (.time 0) (linked 0 (.selected .opened) { opened 2006 with slew := some (slewing 2 3 7) })) 0 =
      some [0x01, 0, 0, 0, 0, 0, 0, 0x07, 0xD6, 1, 0, 1] := by decide
theorem test_portstat :
    answer (after (.portstat 2) (linked 2 (.selected .opened) { State.reset with authority := some 2 })) 2 =
      some [0x01, 0, 0, 0, 4, 0, 16, 0] := by decide
theorem test_doNothing :
    answer (after (.doNothingTransaction 0 0x50) (linked 0 (.selected .opened) (opened 0))) 0 = some [] := by decide
theorem test_chipSelect : ((after (.chipSelectAssertion 3) (opened 0)).port 3).link = .selected .opened := by decide

/-! ## Resets (sections 8.8, 11.4, 1.7) -/

theorem test_prstn_assert :
    (fun x : HostPort => (x.link, x.teardownPending, x.request)) ((after (.prstnAssert 2) (opened 0)).port 2) =
      (.inert, true, .idle) := by decide
theorem test_prstn_executing :
    (fun x : HostPort => (x.resetMark, x.teardownPending))
      ((after (.prstnAssert 0) (request 0 .reserve [] (opened 0))).port 0) = (true, false) := by decide
theorem test_prstn_release :
    ((after (.prstnRelease 2) (after (.prstnAssert 2) (opened 0))).port 2).link = .idle := by decide
theorem test_rstn_assert :
    (fun t : State => (t.time, t.queue, (t.port 0).session, (t.port 0).link)) (after .rstnAssert catchUp) =
      (0, [], .detached, .inert) := by decide
theorem test_rstn_release :
    (fun t : State => ((List.finRange 4).map fun p => (t.quota p).quota))
      (after (.rstnRelease 1) (after .rstnAssert catchUp)) = [32, 16, 8, 8] := by decide

/-! ## Witnesses: states and operands that meet the hypotheses of a statement -/

theorem granted_request {s : State} {p : PortNo} {c : Req} {params : List Byte} (h : s.rstn = false)
    (hl : params.length = c.length) (ho : (s.port p).session = .opened) : Granted (request p c params s) p c params := by
  refine ⟨h, rfl, ?_, hl, fun _ => ?_⟩ <;> simp [request, State.port, State.setPort]
  exact ho

theorem witness_StepRunsFrontCommand :
    ({ opened 0 with pending := [.reserve, .settling] } : State).pending = .reserve :: [.settling] ∧
    (opened 0).pending = [] := by decide

theorem witness_FrameAndSessionChecks :
    (let s := request 3 .reserve [0] (opened 0)
     s.rstn = false ∧ s.engine = .granted 3 ∧ (s.port 3).request = .executing { code := Req.reserve.code, params := [0] } ∧
     ([0] : List Byte).length ≠ Req.reserve.length) ∧
    (let s := request 3 .arm (List.replicate 15 0) State.reset
     s.rstn = false ∧ s.engine = .granted 3 ∧
     (s.port 3).request = .executing { code := Req.arm.code, params := List.replicate 15 0 } ∧
     (List.replicate 15 (0 : Byte)).length = Req.arm.length ∧ (s.port 3).session ≠ .opened) := by decide

/-- Slot 63, of HP2. -/
def last (run : Run) : State := put 63 (slotOf 2 .oneShot run) (opened 0)

theorem witness_SlotRequestsCheckThenWait :
    (Req.setShare ∈ slotRequests ∧ Granted (request 0 .setShare [0, 2] (opened 0)) 0 .setShare [0, 2] ∧
      offered .setShare [0, 2] 0 = none) ∧
    (Granted (request 0 .release [63] (opened 0)) 0 .release [63] ∧ offered .release [63] 63 ≠ none ∧
      byteAt [63] 0 = (63 : SlotNo).val ∧ (request 0 .release [63] (opened 0)).held 63 = none) ∧
    (Granted (request 0 .release [64] (opened 0)) 0 .release [64] ∧ offered .release [64] 0 ≠ none ∧ 63 < byteAt [64] 0) ∧
    (Granted (request 0 .disarm [63] (last .idle)) 0 .disarm [63] ∧
      (request 0 .disarm [63] (last .idle)).held 63 = some (slotOf 2 .oneShot .idle) ∧
      noRight .disarm 0 (slotOf 2 .oneShot .idle) = some .notOwner) ∧
    (Granted (request 2 .disarm [63] (last (.firing 0 none))) 2 .disarm [63] ∧
      noRight .disarm 2 (slotOf 2 .oneShot (.firing 0 none)) = none ∧
      (request 2 .disarm [63] (last (.firing 0 none))).held 63 = some (slotOf 2 .oneShot (.firing 0 none))) ∧
    (let s := { last .idle with insertion := some { slot := 5, deadline := 9, windowStart := none, client := .dispatch } }
     Granted (request 2 .disarm [63] s) 2 .disarm [63] ∧ noRight .disarm 2 (slotOf 2 .oneShot .idle) = none ∧
      (request 2 .disarm [63] s).insertion ≠ none) := by
  refine ⟨⟨by decide, granted_request rfl rfl rfl, by decide⟩, ⟨granted_request rfl rfl rfl, by decide, by decide, by decide⟩,
    ⟨granted_request rfl rfl rfl, by decide, by decide⟩, ⟨granted_request rfl rfl rfl, by decide, by decide⟩,
    ⟨granted_request rfl rfl rfl, by decide, by decide⟩, granted_request rfl rfl rfl, by decide, by decide⟩

/-- Mode code 6 and form 5, one above the last of each. -/
theorem witness_ConfigureAndArmRanges :
    (Granted (request 0 .configure (0 :: 6 :: List.replicate 26 0) (opened 0)) 0 .configure (0 :: 6 :: List.replicate 26 0) ∧
      ¬∃ mode tag action, mode.inRange = true ∧ (0 : Byte) :: 6 :: List.replicate 26 0 = configureBytes 0 mode tag action) ∧
    (Granted (request 0 .arm (0 :: 5 :: List.replicate 13 0) (opened 0)) 0 .arm (0 :: 5 :: List.replicate 13 0) ∧
      ¬∃ form, armInRange form = true ∧ (5 : Byte) :: List.replicate 13 0 = armBytes form) := by
  refine ⟨⟨granted_request rfl rfl rfl, ?_⟩, granted_request rfl rfl rfl, ?_⟩
  · rintro ⟨mode, tag, action, -, h⟩
    cases mode <;> simp [configureBytes, Mode.block] at h
  · rintro ⟨form, -, h⟩
    cases form <;> simp [armBytes] at h

theorem witness_OpenBeginsSession :
    (Granted (request 2 .openSession [] State.reset) 2 .openSession [] ∧
      ((request 2 .openSession [] State.reset).port 2).session = .detached ∧
      ((request 2 .openSession [] State.reset).port 2).notices = []) ∧
    (Granted (request 2 .openSession [] (opened 0)) 2 .openSession [] ∧
      ((request 2 .openSession [] (opened 0)).port 2).session = .opened) :=
  ⟨⟨⟨rfl, rfl, rfl, rfl, fun h => absurd rfl h⟩, by decide, by decide⟩, granted_request rfl rfl rfl, by decide⟩

/-- `watched` with the teardown of HP1 under way, its slot 20 in this state, and HP1 out of every watcher set. -/
def closing (run : Run) : State :=
  let s := put 2 (slotOf 0 .oneShot .idle) (put 20 (slotOf 1 (.periodic 500 0) run)
    { watched with engine := .teardown 1 true 0 0 none })
  s.setPort 1 { s.port 1 with session := .closing, request := .executing { code := 0x02, params := [] } }

theorem queued_idle (f : Frame) : (queued.port 2).request ≠ .queued f := by
  rw [show (queued.port 2).request = .idle by decide]; simp

theorem witness_TeardownReturnsEverything :
    (Calm (request 1 .closeSession [] watched) 1 ∧ Granted (request 1 .closeSession [] watched) 1 .closeSession [] ∧
      nextSlot (request 1 .closeSession [] watched) 1 2) ∧
    (Calm queued 2 ∧ queued.engine = .free ∧ queued.nextCandidate = some 2 ∧ (∀ f, (queued.port 2).request ≠ .queued f)) ∧
    (Calm (closing .idle) 1 ∧ (closing .idle).engine = .teardown 1 true 0 0 none ∧
      ((closing .idle).port 1).request = .executing { code := 0x02, params := [] } ∧
      ((closing .idle).port 1).notices = [] ∧ ((closing .idle).port 1).holdoffCounter = 0 ∧
      (closing .idle).authority ≠ some 1) ∧
    ((closing (.firing 30000 none)).rstn = false ∧ nextSlot (closing (.firing 30000 none)) 1 20 ∧
      (closing (.firing 30000 none)).isFiring 20 = true) ∧
    (let s := { closing .idle with insertion := some { slot := 5, deadline := 9, windowStart := none, client := .dispatch } }
     s.rstn = false ∧ nextSlot s 1 20 ∧ s.isFiring 20 = false ∧ s.insertion ≠ none) ∧
    (let s := closing (.armed 30000 none)
     nextSlot s 1 20 ∧ ∃ r, s.held 20 = some r ∧ s.isFiring 20 = false ∧ r.watchers[(1 : PortNo)] = false ∧
      s.insertion = none ∧ entryOnlyArmed s 20 r) ∧
    (let s := begun (request 1 .closeSession [] watched) 1 true
     s.rstn = false ∧ s.engine = .teardown 1 true 0 0 none ∧ s.authority ≠ some 1 ∧ nextSlot s 1 2 ∧
      ∃ r, s.held 2 = some r ∧ s.isFiring 2 = false ∧ s.insertion = none ∧ r.watchers[(1 : PortNo)] = true ∧
        entryOnlyArmed s 2 r) ∧
    (let s := { closing .idle with authority := some 1 }
     s.rstn = false ∧ s.engine = .teardown 1 true 0 0 none ∧ s.authority = some 1) ∧
    ((stage 3).rstn = false ∧ (stage 3).engine = .teardown 1 true 2 0 none ∧ (stage 3).authority ≠ some 1 ∧
      (∀ n, (stage 3).watches 1 n = false ∧ (stage 3).owns 1 n = false) ∧ ((stage 3).output 5).claim = some 1 ∧
      ∀ m : LineNo, m < 5 → ((stage 3).output m).claim ≠ some 1) ∧
    ((stage 4).rstn = false ∧ (stage 4).engine = .teardown 1 true 2 1 none ∧ (stage 4).authority ≠ some 1 ∧
      (∀ n, (stage 4).watches 1 n = false ∧ (stage 4).owns 1 n = false) ∧ (∀ l, ((stage 4).output l).claim ≠ some 1) ∧
      ((stage 4).port 1).request = .executing { code := 0x02, params := [] }) :=
  ⟨⟨⟨rfl, by decide, rfl⟩, granted_request rfl rfl rfl, by unfold nextSlot; decide⟩,
    ⟨⟨rfl, by decide, rfl⟩, by decide, by decide, queued_idle⟩,
    ⟨⟨rfl, by decide, rfl⟩, by decide, by decide, by decide, by decide, by decide⟩,
    ⟨by decide, by unfold nextSlot; decide, by decide⟩, ⟨by decide, by unfold nextSlot; decide, by decide, by decide⟩,
    ⟨by unfold nextSlot; decide, _, rfl, by decide, by decide, rfl, fun h => absurd h (by decide)⟩,
    ⟨rfl, rfl, by decide, by unfold nextSlot; decide, _, rfl, by decide, rfl, by decide, fun _ => by decide⟩,
    ⟨by decide, by decide, by decide⟩, ⟨by decide, by decide, by decide, by decide, by decide, by decide⟩,
    by decide, by decide, by decide, by decide, by decide, by decide⟩

theorem witness_TeardownPauseChangesNothing :
    (Instr.closeSession = .closeSession ∨ Instr.closeSession = .portArbiterGrant ∨
      Instr.closeSession = fun pause => .secondStageOperation .engine pause) := .inl rfl

/-- Slots 0 to 62 are reserved. -/
def nearlyFull : State := (List.range 63).foldl (fun s k => put (Fin.ofNat 64 k) (slotOf 1 .oneShot .idle) s) (opened 0)

theorem witness_ReserveTakesLowestFreeSlot :
    (let s := (opened 0).setQuota 2 { quota := 8, owned := 8 }
     Granted (request 2 .reserve [] s) 2 .reserve [] ∧ ((request 2 .reserve [] s).quota 2).quota ≤ (s.quota 2).owned) ∧
    (let s := { opened 0 with insertion := some { slot := 5, deadline := 9, windowStart := none, client := .dispatch } }
     Granted (request 2 .reserve [] s) 2 .reserve [] ∧ (s.quota 2).owned < (s.quota 2).quota ∧
      (request 2 .reserve [] s).insertion ≠ none) ∧
    (Granted (request 2 .reserve [] nearlyFull) 2 .reserve [] ∧
      ((request 2 .reserve [] nearlyFull).quota 2).owned < ((request 2 .reserve [] nearlyFull).quota 2).quota ∧
      (request 2 .reserve [] nearlyFull).insertion = none ∧ (request 2 .reserve [] nearlyFull).held 63 = none ∧
      ∀ m : SlotNo, m < 63 → (request 2 .reserve [] nearlyFull).held m ≠ none) :=
  ⟨⟨granted_request rfl rfl rfl, by decide⟩, ⟨granted_request rfl rfl rfl, by decide, by decide⟩,
    granted_request rfl rfl rfl, by decide, by decide, by decide, by decide⟩

/-- The reservation of slot 3 in `shared`. -/
def shared3 : Reservation :=
  { slotOf 2 .oneShot (.armed 900 none) with share := .opn, watchers := #v[false, true, false, false] }

theorem ready_shared3 (p : PortNo) (c : Req) (params : List Byte) :
    Ready (request p c params (shared #v[false, true, false, false])) 3 shared3 := ⟨rfl, rfl, rfl⟩

theorem witness_ReleaseFreesSlot :
    Granted (request 2 .release [BitVec.ofNat 8 (3 : SlotNo).val] (shared #v[false, true, false, false])) 2 .release
        [BitVec.ofNat 8 (3 : SlotNo).val] ∧
      Ready (request 2 .release [BitVec.ofNat 8 (3 : SlotNo).val] (shared #v[false, true, false, false])) 3 shared3 ∧
      shared3.owner = 2 ∧ shared3.watchers[2] = false ∧
      entryOnlyArmed (request 2 .release [BitVec.ofNat 8 (3 : SlotNo).val] (shared #v[false, true, false, false])) 3 shared3 :=
  ⟨granted_request rfl rfl rfl, ready_shared3 _ _ _, by decide, by decide, fun h => absurd h (by decide)⟩

theorem witness_SetShareOpensAndCloses (share : Share) :
    Granted (request 2 .setShare [BitVec.ofNat 8 (3 : SlotNo).val, share.code] (shared #v[false, true, false, false])) 2
        .setShare [BitVec.ofNat 8 (3 : SlotNo).val, share.code] ∧
      Ready (request 2 .setShare [BitVec.ofNat 8 (3 : SlotNo).val, share.code] (shared #v[false, true, false, false])) 3
        shared3 ∧ shared3.owner = 2 ∧ shared3.watchers[2] = false :=
  ⟨granted_request rfl rfl rfl, ready_shared3 _ _ _, by decide, by decide⟩

theorem witness_WatchAndUnwatch :
    (Ready (request 0 .watch [3] (shared #v[false, true, false, false])) 3 shared3 ∧
      Granted (request 0 .watch [BitVec.ofNat 8 (3 : SlotNo).val] (shared #v[false, true, false, false])) 0 .watch
        [BitVec.ofNat 8 (3 : SlotNo).val] ∧ shared3.owner ≠ 0 ∧ shared3.share = .opn) ∧
    (Granted (request 1 .unwatch [BitVec.ofNat 8 (3 : SlotNo).val] (shared #v[false, true, false, false])) 1 .unwatch
        [BitVec.ofNat 8 (3 : SlotNo).val] ∧ shared3.watchers[1] = true) :=
  ⟨⟨ready_shared3 _ _ _, granted_request rfl rfl rfl, by decide, by decide⟩, granted_request rfl rfl rfl, by decide⟩

theorem witness_QueryReturnsSlotRecord :
    Granted (request 0 .query [BitVec.ofNat 8 (3 : SlotNo).val] (shared #v[false, true, false, false])) 0 .query
        [BitVec.ofNat 8 (3 : SlotNo).val] ∧
      Ready (request 0 .query [3] (shared #v[false, true, false, false])) 3 shared3 ∧
      (shared3.owner = 0 ∨ shared3.share = .opn) :=
  ⟨granted_request rfl rfl rfl, ready_shared3 _ _ _, by decide⟩

/-- The counts 1 and 64, and 0 and 65 outside the range. -/
theorem witness_GiveQuotaMovesUnits (n : Byte) :
    Granted (request 0 .giveQuota [3, n] (opened 0)) 0 .giveQuota [3, n] := granted_request rfl rfl rfl

theorem witness_ConfigureReplacesMode :
    let params := configureBytes (BitVec.ofNat 8 (63 : SlotNo).val) (.periodic 1 65535) 7 (some { line := 7, action := .toggle })
    let s := request 2 .configure params (last .idle)
    Granted s 2 .configure params ∧ (Mode.periodic 1 65535).inRange = true ∧
      Ready s 63 (slotOf 2 .oneShot .idle) ∧ (slotOf 2 .oneShot .idle).owner = 2 :=
  ⟨granted_request rfl rfl rfl, by decide, ⟨rfl, rfl, rfl⟩, by decide⟩

/-- The last time and the first duration. -/
theorem witness_ArmStartsSlot (form : ArmForm) (h : form = .absolute (BitVec.ofNat 64 (2 ^ 64 - 1)) true ∨ form = .duration 1) :
    let params := BitVec.ofNat 8 (63 : SlotNo).val :: armBytes form
    let s := request 2 .arm params (last .idle)
    Granted s 2 .arm params ∧ armInRange form = true ∧ Ready s 63 (slotOf 2 .oneShot .idle) ∧
      (slotOf 2 .oneShot .idle).owner = 2 := by
  rcases h with rfl | rfl <;> exact ⟨granted_request rfl rfl rfl, by decide, ⟨rfl, rfl, rfl⟩, by decide⟩

theorem witness_DisarmStopsSlot :
    (let s := request 2 .disarm [BitVec.ofNat 8 (3 : SlotNo).val] (shared #v[false, true, false, false])
     Granted s 2 .disarm [BitVec.ofNat 8 (3 : SlotNo).val] ∧ Ready s 3 shared3 ∧ shared3.owner = 2 ∧
      shared3.watchers[2] = false ∧ entryOnlyArmed s 3 shared3) ∧
    (let s := request 2 .disarm [BitVec.ofNat 8 (63 : SlotNo).val] (last .idle)
     Granted s 2 .disarm [BitVec.ofNat 8 (63 : SlotNo).val] ∧ Ready s 63 (slotOf 2 .oneShot .idle) ∧
      entryOnlyArmed s 63 (slotOf 2 .oneShot .idle)) :=
  ⟨⟨granted_request rfl rfl rfl, ready_shared3 _ _ _, by decide, by decide, fun h => absurd h (by decide)⟩,
    granted_request rfl rfl rfl, ⟨rfl, rfl, rfl⟩, fun _ e h => absurd h (List.not_mem_nil)⟩

theorem witness_AuthorityTakenAndYielded :
    Granted (request 0 .takeAuthority [] (opened 0)) 0 .takeAuthority [] ∧
    Granted (request 0 .yieldAuthority [] (opened 0)) 0 .yieldAuthority [] :=
  ⟨granted_request rfl rfl rfl, granted_request rfl rfl rfl⟩

/-- The first and the last delta in range, and the first beyond. -/
theorem witness_StepAdvancesTime (delta : Nat) (h : delta = 1 ∨ delta = 2 ^ 48 - 1 ∨ delta = 2 ^ 48) :
    delta < 2 ^ 64 ∧ Granted (request 3 .stepTime (bytesBE 8 delta) { opened 5010 with authority := some 3 }) 3 .stepTime
      (bytesBE 8 delta) := by
  rcases h with rfl | rfl | rfl <;> exact ⟨by decide, granted_request rfl rfl rfl⟩

theorem witness_SlewStartsAndCancels :
    ((2 : Nat) ^ 32 - 1 < 2 ^ 32 ∧ Granted
      (request 3 .slew (bytesBE 4 (0x80000000 : BitVec 32).toNat ++ bytesBE 4 (2 ^ 32 - 1)) (opened 0)) 3 .slew
      (bytesBE 4 (0x80000000 : BitVec 32).toNat ++ bytesBE 4 (2 ^ 32 - 1))) ∧
    Granted (request 3 .cancelSlew [] (opened 0)) 3 .cancelSlew [] :=
  ⟨⟨by decide, granted_request rfl rfl rfl⟩, granted_request rfl rfl rfl⟩

theorem witness_SetDivisorIsPending (divisor : Nat) (h : divisor = 1 ∨ divisor = 4096 ∨ divisor = 4097) :
    divisor < 2 ^ 16 ∧ Granted (request 3 .setDivisor (bytesBE 2 divisor) { opened 0 with authority := some 3 }) 3 .setDivisor
      (bytesBE 2 divisor) := by
  rcases h with rfl | rfl | rfl <;> exact ⟨by decide, granted_request rfl rfl rfl⟩

theorem witness_TickAdvancesTime :
    ((opened 5).rstn = false ∧ (opened 5).divisor ≤ (opened 5).divider + 1 ∧ (opened 5).slew = none) ∧
    ((after (.refclkRisingEdge 1 true) (opened 5)).tickDue = true ∧ (after (.refclkRisingEdge 1 true) (opened 5)).slew = none) ∧
    (let s := { opened 2002 with slew := some (slewing 3 6 6) }
     s.divisor ≤ s.divider + 1 ∧ s.slew = some (slewing 3 6 6) ∧ 1 < (slewing 3 6 6).ticksRemaining) ∧
    (let s := { opened 2009 with slew := some (slewing 1 1 5) }
     s.divisor ≤ s.divider + 1 ∧ s.slew = some (slewing 1 1 5) ∧ (slewing 1 1 5).ticksRemaining = 1) := by decide

theorem witness_RefclkSamplesAndDivides :
    (let s := { opened 5 with divisor := 3, divider := 1 }
     s.rstn = false ∧ s.tickDue = false ∧ s.divider + 1 < s.divisor) ∧
    (let s := { opened 5 with divisor := 3, divider := 2 }
     s.rstn = false ∧ s.tickDue = false ∧ s.divisor ≤ s.divider + 1) ∧
    ((after (.refclkRisingEdge 1 true) (opened 5)).rstn = false ∧ (after (.refclkRisingEdge 1 true) (opened 5)).tickDue = true) ∧
    (after .rstnAssert (opened 5)).rstn = true := by decide

theorem witness_OutputsClaimedAndDriven :
    (Granted (request 0 .claimOutput [7, 1] (opened 0)) 0 .claimOutput [7, 1] ∧
      (7 : Byte) = BitVec.ofNat 8 (7 : LineNo).val ∧ (1 : Byte) = Level.high.code) ∧
    (Granted (request 0 .claimOutput [8, 1] (opened 0)) 0 .claimOutput [8, 1] ∧ 7 < (8 : Byte).toNat) ∧
    (Granted (request 0 .driveOutput [0, 0] (opened 0)) 0 .driveOutput [0, 0] ∧
      (0 : Byte) = BitVec.ofNat 8 (0 : LineNo).val ∧ (0 : Byte) = Level.low.code) ∧
    (Granted (request 0 .driveOutput [7, 2] (opened 0)) 0 .driveOutput [7, 2] ∧ 1 < (2 : Byte).toNat) :=
  ⟨⟨granted_request rfl rfl rfl, by decide, by decide⟩, ⟨granted_request rfl rfl rfl, by decide⟩,
    ⟨granted_request rfl rfl rfl, by decide, by decide⟩, granted_request rfl rfl rfl, by decide⟩

theorem witness_ReleaseOutputEndsClaim :
    (Granted (request 0 .releaseOutput [8] (opened 0)) 0 .releaseOutput [8] ∧ 7 < (8 : Byte).toNat) ∧
    (Granted (request 0 .releaseOutput [7] (opened 0)) 0 .releaseOutput [7] ∧
      ((request 0 .releaseOutput [7] (opened 0)).output 7).claim ≠ some 0) ∧
    (let s := request 0 .releaseOutput [2] (claimed .low .high (opened 0))
     Granted s 0 .releaseOutput [2] ∧ (s.output 2).claim = some 0 ∧
      ¬∃ n, ∃ r ∈ s.held n, r.owner = 0 ∧ ∃ a ∈ r.action, a.line = 2) ∧
    (let r := { slotOf 0 .oneShot .idle with action := some { line := 2, action := .set } }
     let s := request 0 .releaseOutput [2] (put 9 r (claimed .low .high (opened 0)))
     Granted s 0 .releaseOutput [2] ∧ (s.output 2).claim = some 0 ∧
      ∃ n, ∃ r ∈ s.held n, r.owner = 0 ∧ ∃ a ∈ r.action, a.line = 2) :=
  ⟨⟨granted_request rfl rfl rfl, by decide⟩, ⟨granted_request rfl rfl rfl, by decide⟩,
    ⟨granted_request rfl rfl rfl, by decide, by decide⟩, granted_request rfl rfl rfl, by decide, 9, by decide⟩

theorem witness_EdgeRecognizedThreeWays :
    let s := busy .low .high 0 (List.replicate 16 burst) 8005
    s.rstn = false ∧ (s.input 6).stage2 ≠ (s.input 6).synchronized ∧
      ∀ k, k < 6 → (s.input k).stage2 = (s.input k).synchronized := by decide

theorem witness_RecordTakeReportsAndFixesSet :
    let s := busy .low .low 2 [fall, burst] 8040
    s.rstn = false ∧ s.monitor = .ready ∧ s.fifo = fall :: [burst] := by decide

/-- The last line alone is owed its level, without and with a binding; and no record is left to apply. -/
theorem witness_RecordLeavesServesOwedLine :
    (let s := (opened 0).setInput 7 { (opened 0).input 7 with owed := true, synchronized := .high, stage2 := .high, lost := 3 }
     let left := recognizedBelow 8 { s with fifo := s.fifo.tail, monitor := .ready }
     ∀ l, (left.input l).owed = true → (left.input l).bindings = [] ∧ ∀ rec ∈ left.fifo, rec.line ≠ l) ∧
    (let s := (opened 0).setInput 7 { (opened 0).input 7 with owed := true, bindings := [5] }
     let left := recognizedBelow 8 { s with fifo := s.fifo.tail, monitor := .ready }
     (left.input 7).owed = true ∧ ¬((left.input 7).bindings = [] ∧ ∀ rec ∈ left.fifo, rec.line ≠ 7) ∧
      ∀ k, k < 7 → (left.input k).owed = true → (left.input k).bindings = [] ∧ ∀ rec ∈ left.fifo, rec.line ≠ k) ∧
    (crowded.rstn = false ∧ crowded.monitor = .applying [] false ∧
      let left := recognizedBelow 7 { crowded with fifo := crowded.fifo.tail, monitor := .ready }
      (left.input 7).owed = true ∧ left.fifo.length = 16) := by decide

theorem witness_GatedSlotFollowsGate :
    let s := { busy .low .low 0 [fall] 8040 with monitor := .applying [40, 41] false }
    Applying s fall 40 [41] (slotOf 2 (.gated 6 .high none 0) (.armed 9000 none)) :=
  ⟨rfl, ⟨false, rfl⟩, rfl, ⟨rfl, rfl, rfl⟩, fun h => absurd h (by decide)⟩

theorem witness_TriggeredSlotStarts :
    let s := { busy .low .low 0 [{ fall with direction := .rise }] 8040 with monitor := .applying [41] true }
    Applying s { fall with direction := .rise } 41 [] (slotOf 3 (.triggered 6 .rise 50 none 0 false true) .waiting) :=
  ⟨rfl, ⟨true, rfl⟩, rfl, ⟨rfl, rfl, rfl⟩, fun _ => by decide⟩

theorem witness_WindowSlotMeasures :
    let r := slotOf 3 (.window 4 .rise .rise 1500 { short := true, long := true, ends := true } true) (.lapsed 5100)
    Applying (measuring (.lapsed 5100) 7000) { line := 4, direction := .rise, timestamp := 7000, kind := .edge } 12 [] r ∧
      r.watchers[r.owner] = false ∧ r.run.suits r.mode = true :=
  ⟨⟨rfl, ⟨false, rfl⟩, rfl, ⟨rfl, rfl, rfl⟩, fun _ => by decide⟩, by decide, by decide⟩

theorem witness_TakeHeadFiresSlot :
    ∃ r, catchUp.rstn = false ∧ catchUp.firing = none ∧ catchUp.insertion = none ∧
      catchUp.queue = { slot := 4, deadline := 5200 } ::
        [{ slot := 7, deadline := 5600 }, { slot := 11, deadline := 5900 }] ∧
      (5200 : TimeCount).toNat ≤ catchUp.time.toNat ∧ catchUp.held 4 = some r ∧ r.run = .armed 5200 none ∧
      r.mode.inRange = true :=
  ⟨_, rfl, rfl, rfl, rfl, by decide, rfl, rfl, rfl⟩

theorem witness_SettlingSettlesByMode :
    let s := after (.takeHead (.copies 0b0001)) catchUp
    ∃ f r, s.rstn = false ∧ s.firing = some f ∧ s.held f.slot = some r ∧ s.insertion = none ∧
      { s with insertion := some { slot := 9, deadline := 9, windowStart := none, client := .lineMonitor } }.insertion ≠ none ∧
      r.run = .firing 5200 none ∧ r.run.suits r.mode = true ∧ f.final = false ∧ r.mode.period ≠ none ∧
      f.nextDeadline = some 7600 :=
  ⟨_, _, rfl, rfl, rfl, rfl, by decide, rfl, rfl, rfl, by decide, rfl⟩

/-- An insertion in flight for slot 4, FIRING. -/
def inserting (client : Inserter) : State :=
  { after .takeHead catchUp with insertion := some { slot := 4, deadline := 7600, windowStart := none, client } }

theorem witness_InsertCompletionPlacesEntry :
    ((inserting .dispatch).rstn = false ∧
      (inserting .dispatch).insertion = some { slot := 4, deadline := 7600, windowStart := none, client := .dispatch } ∧
      ((inserting .dispatch).held 4).isSome = true) ∧
    (((request 0 .arm [] (inserting (.engine 0 [1]))).port 0).request = .executing { code := Req.arm.code, params := [] }) ∧
    ({ inserting .lineMonitor with monitor := .applying [4, 9] false } : State).monitor = .applying (4 :: [9]) false := by
  decide

theorem witness_ArbiterGrantsInTurn :
    (let s := { queued with pointer := 3 }
     s.rstn = false ∧ s.engine = .free ∧ (∀ j : PortNo, j < 0 → False) ∧
      (s.port (s.pointer + 0)).request = .queued { code := 0x30, params := [] }) ∧
    (let s := { opened 0 with pointer := 1 }
     s.engine = .free ∧ ∀ q, ¬((s.port q).teardownPending = true ∨ (s.port q).request ≠ .idle)) := by
  refine ⟨⟨rfl, rfl, ?_, rfl⟩, rfl, by decide⟩
  intro j hj
  exact absurd hj (Nat.not_lt_zero _)

theorem witness_SecondStageActsAsArrivingNow :
    (let s := { request 2 .disarm [63] (last .idle) with engine := .waiting 2 (.disarm 63) (.firing 63) }
     Req.disarm ∈ slotRequests ∧ Granted { s with engine := .granted 2 } 2 .disarm [63] ∧
      offered .disarm [63] 63 = some (.disarm 63) ∧ byteAt [63] 0 = (63 : SlotNo).val ∧
      s.held 63 = some (slotOf 2 .oneShot .idle) ∧ noRight .disarm 2 (slotOf 2 .oneShot .idle) = none) ∧
    (let s := { request 2 .reserve [] (opened 0) with engine := .waiting 2 .reserve .insertion }
     Granted { s with engine := .granted 2 } 2 .reserve [] ∧ (s.quota 2).owned < (s.quota 2).quota) ∧
    ({ opened 0 with monitor := .applying [3] true } : State).monitor = .applying [3] true ∧
    (let s := { put 3 (slotOf 0 .oneShot (.firing 9 none)) (opened 0) with monitor := .applying [3] false, fifo := [burst] }
     s.rstn = false ∧ s.monitor = .applying (3 :: []) false ∧ s.fifo.head? = some burst ∧
      s.held 3 = some (slotOf 0 .oneShot (.firing 9 none))) ∧
    (let s := { inserting .dispatch with monitor := .applying [7] false, fifo := [burst] }
     s.monitor = .applying (7 :: []) false ∧ s.fifo.head? = some burst ∧
      s.held 7 = some (slotOf 1 .oneShot (.armed 5600 none)) ∧ s.insertion ≠ none) :=
  ⟨⟨by decide, granted_request rfl rfl rfl, by decide, by decide, by decide, by decide⟩,
    ⟨granted_request rfl rfl rfl, by decide⟩, rfl, by decide, by decide⟩

/-- The thresholds 1 and 32, and 0 and 33 outside the range; the holdoff expired at its value. -/
theorem witness_AttentionSettingsAndHoldoff (threshold : Byte) :
    Granted (request 1 .setAttention (threshold :: bytesBE 2 (200 : Half).toNat) (opened 0)) 1 .setAttention
      (threshold :: bytesBE 2 (200 : Half).toNat) ∧
    (let s := (opened 0).setPort 1 { (opened 0).port 1 with
       notices := notices 0 2, threshold := 4, holdoff := 200, holdoffCounter := 200 }
     s.rstn = false ∧ (s.port 1).session = .opened ∧ (s.port 1).notices ≠ [] ∧ 0 < (s.port 1).holdoff.toNat ∧
      (s.port 1).holdoff.toNat ≤ (s.port 1).holdoffCounter.toNat) :=
  ⟨granted_request rfl rfl rfl, by decide⟩

theorem opened_reading (list : List Stored) (nextSeq : Half) : Opened (reading list nextSeq) 1 := ⟨rfl, rfl⟩

/-- The last offset with a notice, and the first without. -/
theorem witness_PeekCopiesNotice :
    Opened (reading (notices 11 23) 34) 1 ∧
    ((reading (notices 11 23) 34).port 1).notices[(22 : Byte).toNat]? ≠ none ∧
    ((reading (notices 11 23) 34).port 1).notices[(23 : Byte).toNat]? = none := ⟨⟨rfl, rfl⟩, by decide⟩

theorem witness_AckRemovesThroughSeq :
    Opened (reading (notices 65535 3) 2) 1 ∧
    (BitVec.ofNat 8 ((0 : Half).toNat / 256), BitVec.ofNat 8 (0 : Half).toNat) = ((0, 0) : Byte × Byte) ∧
    (((reading (notices 65535 3) 2).port 1).notices =
        notices 65535 1 ++ { seq := 0, notice := Notice.bare .stepped 0 0 1 } :: notices 1 1 ∧
      ∀ o ∈ notices 65535 1, o.seq ≠ 0) ∧
    (∀ e ∈ ((reading (notices 65535 3) 2).port 1).notices, e.seq ≠ 2) :=
  ⟨⟨rfl, rfl⟩, by decide, ⟨by decide, by decide⟩, by decide⟩

theorem witness_SubmitTakesOrRefusesFrame :
    Opened (linked 0 (.selected .opened) (opened 0)) 0 ∧ (List.replicate 255 (7 : Byte)).length < 256 ∧
      ([0x11, 1] : List Byte).length < 2 + (([0x11, 1] : List Byte).getD 1 0).toNat :=
  ⟨⟨rfl, rfl⟩, List.length_replicate.trans_lt (by decide), by decide⟩

theorem witness_FetchReturnsHeldResponse :
    Opened (linked 0 (.selected .opened) (opened 0)) 0 ∧
    (fetching.rstn = false ∧ (fetching.port 0).link = .selected (.fetching [0x01, 0x10, 0x00, 3, 0, 0, 1])) :=
  ⟨⟨rfl, rfl⟩, by decide⟩

theorem witness_TimeAndPortstatReport : Opened (linked 2 (.selected .opened) (opened 0)) 2 := ⟨rfl, rfl⟩

theorem witness_ChipSelectOpensAndEnds :
    ((opened 0).rstn = false ∧ ((opened 0).port 3).link = .idle ∧ ((opened 0).port 3).chipSelect = false) ∧
    (((after (.prstnAssert 3) (opened 0)).port 3).link = .inert) ∧
    (Opened (linked 3 (.selected .opened) (opened 0)) 3 ∧ (0x50 : Byte).toNat < 0x51 ∧ 0x56 < (0x57 : Byte).toNat) ∧
    (([5] : List Byte).length < 2 ∧ ([5] : List Byte).length < 2 + (([5] : List Byte).getD 1 0).toNat) :=
  ⟨by decide, by decide, ⟨⟨rfl, rfl⟩, by decide⟩, by decide⟩

theorem witness_PortResetAndRelease :
    ((opened 0).rstn = false ∧ ((opened 0).port 3).prstn = false) ∧
    ((after (.prstnAssert 3) (opened 0)).rstn = false ∧ ((after (.prstnAssert 3) (opened 0)).port 3).prstn = true) := by
  decide

theorem witness_DeviceResetValues :
    catchUp.rstn = false ∧ (after .rstnAssert catchUp).rstn = true ∧
      (∀ p, Instr.takeHead .action ≠ .prstnAssert p ∧ Instr.takeHead .action ≠ .prstnRelease p ∧
        Instr.takeHead .action ≠ .chipSelectAssertion p ∧ Instr.takeHead .action ≠ .chipSelectNegation p) ∧
      (∀ pins tickLater, Instr.takeHead .action ≠ .refclkRisingEdge pins tickLater) ∧ ∀ q, Instr.takeHead .action ≠ .rstnRelease q :=
  ⟨by decide, by decide, by simp, by simp, by simp⟩

/-! ### A state with work in every block, which every law of Safety.lean admits -/

/-- HP0's slot 0 is ARMED with an action on its output line, HP1's slot 1 is PAUSED on line 6, HP1 watches slot 0 and holds two
notices, HP3 slews, a division is under way, and a TAKE_HEAD waits to be stepped. -/
def lawful : State :=
  let r := { slotOf 0 (.periodic 5 0) (.armed 200 none) with
    share := .opn, watchers := #v[false, true, false, false], action := some { line := 2, action := .set } }
  let s := put 1 (slotOf 1 (.gated 6 .high none 0) (.paused 5)) (put 0 r (claimed .low .high (opened 250)))
  let s := s.setInput 6 { s.input 6 with bindings := [1] }
  let s := s.setPort 1 { s.port 1 with notices := notices 65535 2, nextSeq := 1, holdoffCounter := 5, attn := true }
  { s with
    pending := [.takeHead]
    queue := [{ slot := 0, deadline := 200 }]
    quotas := #v[{ quota := 16, owned := 1 }, { quota := 16, owned := 1 }, { quota := 16, owned := 0 },
      { quota := 16, owned := 0 }]
    divisor := 3
    divider := 2
    authority := some 3
    slew := some (slewing 3 7 3) }

theorem lawful_steps : ∃ s', step lawful = .next s' := ⟨_, rfl⟩

theorem witness_AttentionFollowsItsTerms : lawful.AttentionLaw := by
  unfold State.AttentionLaw; decide

theorem witness_NoticeQueuesKeepShape : lawful.NoticeLaw := by
  refine ⟨?_, trivial⟩
  unfold HostPort.NoticeLaw; decide

theorem witness_QueueAndSlotsAgree : lawful.SortedLaw ∧ lawful.TimerLaw := by
  unfold State.SortedLaw State.TimerLaw; decide

theorem witness_QuotaLawsKept : lawful.QuotaLaw := by
  unfold State.QuotaLaw; decide

theorem witness_WatchersAndDetachedPorts : lawful.WatcherLaw ∧ lawful.DetachedLaw := by
  refine ⟨⟨?_, trivial⟩, ?_, trivial⟩ <;> decide

theorem witness_OutputActionsStayClaimed : lawful.OutputLaw := by
  unfold State.OutputLaw; decide

theorem witness_BindingListsMatchModes : lawful.BindingLaw := by
  unfold State.BindingLaw; decide

theorem witness_DividerAndSlewKept : lawful.DividerLaw ∧ lawful.SlewLaw := by
  unfold State.DividerLaw State.SlewLaw Slew.Law; decide

theorem witness_SlotsSuitTheirModes : lawful.RunLaw ∧ lawful.TimerLaw := by
  refine ⟨?_, witness_QueueAndSlotsAgree.2⟩
  have hn : ∀ n : SlotNo, n = 0 ∨ n = 1 ∨ lawful.held n = none := by decide
  refine ⟨fun n r hr => ?_, fun f hf => absurd hf (by decide +revert), fun i hi => absurd hi (by decide +revert), trivial⟩
  rcases hn n with rfl | rfl | h
  · obtain rfl : _ = r := Option.some.inj hr
    exact ⟨by decide, by decide, fun h => absurd rfl h⟩
  · obtain rfl : _ = r := Option.some.inj hr
    exact ⟨by decide, by decide, fun h => absurd rfl h⟩
  · rw [h] at hr; exact absurd hr (by simp)

theorem witness_LineLevelsAgree : lawful.EdgeLaw := by
  refine ⟨by decide, by decide, by decide, .inl rfl⟩

theorem witness_EngineAndLinksAgree : lawful.EngineLaw ∧ lawful.ClosingLaw ∧ lawful.LinkLaw := by
  refine ⟨⟨by decide, fun p => ⟨fun h => ?_, fun h => ?_⟩, fun p => ⟨?_, ?_, fun reply h => ?_⟩⟩, trivial, by unfold State.LinkLaw; decide⟩
  · exact absurd h (by revert p; decide)
  · obtain ⟨i, hi, -⟩ := h; exact absurd hi (by simp [lawful, put, claimed, opened, State.reset, State.setInput, State.setSlot,
      State.setPort, State.setOutput])
  · revert p; decide
  · revert p; decide
  · have hl : ∀ p, (lawful.port p).link = .idle := by decide
    rw [hl p] at h; exact absurd h (by simp)

end Sys2Proof.Tests
end

section
/-! SUPPORT. RESERVE and GIVE_QUOTA (section 1.4): how a granted request is executed and completed, the choice of the lowest-numbered
FREE slot, and the two quota rows that a gift of quota changes. -/

namespace Sys2Proof.Claims

open Sys2Proof.Machine

/-! ## Granted requests -/

/-- A row that serves request `c` does `c`'s own work on a granted `c`: the frame and session checks pass (R149). -/
theorem Granted.live_serve {s : State} {p : PortNo} {c : Req} {params : List Byte} (h : Granted s p c params)
    (k : PortNo → List Byte → State → State) : (s.live fun s => s.serve c k) = .next (k p params s) := by
  rw [State.live_of_not_rstn h.live, State.serve_of_granted h.engine h.request h.length h.session]

/-- The model's completion of a request in EXECUTING is `completed`, with the reset mark and without it (R144, R147). -/
theorem complete_eq_completed {s : State} {p : PortNo} {c : Req} {params : List Byte}
    (h : (s.port p).request = .executing { code := c.code, params }) (status : Status) (results : List Byte) :
    s.complete p status results = completed s p c status results := by
  cases hm : (s.port p).resetMark with
  | true => rw [State.complete_of_resetMark hm]; simp [completed, answered, hm, State.setPort]
  | false => rw [State.complete_of_executing h hm]; simp [completed, answered, hm, State.setPort]

/-- A granted request is completed after work that leaves its port alone. -/
theorem Granted.complete_eq {s t : State} {p : PortNo} {c : Req} {params : List Byte} (h : Granted s p c params)
    (ht : t.port p = s.port p) (status : Status) (results : List Byte) :
    t.complete p status results = completed t p c status results :=
  complete_eq_completed (ht ▸ h.request) status results

theorem Granted.refuse_eq {s : State} {p : PortNo} {c : Req} {params : List Byte} (h : Granted s p c params)
    (status : Status) : s.refuse p status = completed s p c status [] :=
  h.complete_eq rfl status []

/-! ## RESERVE -/

/-- The slot that RESERVE takes is FREE, and no lower-numbered slot is (R10). -/
theorem freeSlot_eq_some_iff {s : State} {n : SlotNo} :
    s.freeSlot = some n ↔ s.held n = none ∧ ∀ m < n, s.held m ≠ none := by
  rw [State.freeSlot, allSlots, ← Fin.find?_eq_find?_finRange, Fin.find?_eq_some_iff]
  simp only [Option.isNone_iff_eq_none, Option.isNone_eq_false_iff, ← Option.isSome_iff_ne_none]

/-- An operation that names no slot waits for an insertion in flight, and for nothing else (R28). -/
theorem waitsFor_noSlot (s : State) : s.waitsFor none = if s.insertion.isSome then some .insertion else none := rfl

/-- Slot `n` becomes port `p`'s: a fresh reservation in the next generation, counted in `p`'s owned. -/
def slotTaken (s : State) (p : PortNo) (n : SlotNo) : State :=
  (s.setSlot n { generation := (s.slot n).generation + 1, held := some (Reservation.fresh p) }).setQuota p
    { s.quota p with owned := (s.quota p).owned + 1 }

theorem port_slotTaken (s : State) (p q : PortNo) (n : SlotNo) : (slotTaken s p n).port q = s.port q := rfl

/-- RESERVE below quota takes the slot that `freeSlot` finds and names it with its new generation (R10). -/
theorem reserveOp_of_freeSlot {s : State} {p : PortNo} {n : SlotNo} (hn : s.freeSlot = some n)
    (hq : (s.quota p).owned < (s.quota p).quota) :
    s.reserveOp p = (slotTaken s p n).complete p .ok (slotResult n ((s.slot n).generation + 1)) := by
  simp only [State.reserveOp, hn, hq, decide_true, State.quota_setSlot, slotTaken]

theorem exec_reserve_of_granted {s : State} {p : PortNo} (h : Granted s p .reserve []) :
    exec .reserve s = .next
      (if (s.quota p).owned < (s.quota p).quota then s.offer p none .reserve (State.reserveOp p)
      else s.refuse p .noQuota) :=
  h.live_serve _

/-- Settles O9: the caller's quota decides between NO_QUOTA and the offer, an insertion in flight between the wait and the take. -/
theorem reserveTakesLowestFreeSlot : Obligations.ReserveTakesLowestFreeSlot := by
  intro s p h
  rw [exec_reserve_of_granted h]
  refine ⟨fun hq => ?_, fun hq hi => ?_, fun n hq hi hfree hlow => ?_⟩
  · rw [if_neg (Nat.not_lt.2 hq), h.refuse_eq]
  · have hw : s.waitsFor none = some .insertion := by
      rw [waitsFor_noSlot, if_pos (Option.isSome_iff_ne_none.2 hi)]
    rw [if_pos hq, State.offer_waits hw]
  · have hw : s.waitsFor none = none := by simp [waitsFor_noSlot, hi]
    have hn : s.freeSlot = some n := freeSlot_eq_some_iff.2 ⟨hfree, hlow⟩
    rw [if_pos hq, State.offer_taken hw, reserveOp_of_freeSlot hn hq, h.complete_eq (port_slotTaken s p p n)]
    rfl

/-! ## GIVE_QUOTA -/

/-- The parameter check of GIVE_QUOTA looks at the count alone (R21, R149). -/
theorem giveQuotaOf_bytes (dest n : Byte) :
    giveQuotaOf [dest, n] = if 1 ≤ n.toNat ∧ n.toNat ≤ 64 then some (dest.toNat, n.toNat) else none := rfl

/-- Two rows of the quota table replaced at two different ports are one new table (R21). -/
theorem setQuota_setQuota_of_ne (s : State) {p d : PortNo} (h : d ≠ p) (x y : QuotaEntry) :
    (s.setQuota p x).setQuota d y =
      { s with quotas := Vector.ofFn fun q => if q = p then x else if q = d then y else s.quota q } := by
  have hq : (s.quotas.set p x).set d y =
      Vector.ofFn fun q => if q = p then x else if q = d then y else s.quota q := by
    ext i hi : 1
    calc
      _ = if ⟨i, hi⟩ = d then y else if ⟨i, hi⟩ = p then x else s.quota ⟨i, hi⟩ := by
        rw [← State.quota_setQuota, ← State.quota_setQuota]; rfl
      _ = _ := by
        rw [Vector.getElem_ofFn]
        by_cases hd : (⟨i, hi⟩ : PortNo) = d
        · simp only [hd, h, if_true, if_false]
        · simp only [hd, if_false]
  simp only [State.setQuota, hq]

/-- `n` units of quota go from port `p` to port `d`. -/
def quotaMoved (s : State) (p d : PortNo) (n : Nat) : State :=
  (s.setQuota p { s.quota p with quota := (s.quota p).quota - n }).setQuota d
    { s.quota d with quota := (s.quota d).quota + n }

theorem port_quotaMoved (s : State) (p d q : PortNo) (n : Nat) : (quotaMoved s p d n).port q = s.port q := rfl

theorem quotaMoved_eq (s : State) {p d : PortNo} (h : d ≠ p) (n : Nat) :
    quotaMoved s p d n =
      { s with
        quotas := Vector.ofFn fun q =>
          if q = p then { s.quota p with quota := (s.quota p).quota - n }
          else if q.val = d.val then { s.quota q with quota := (s.quota q).quota + n }
          else s.quota q } := by
  rw [quotaMoved, setQuota_setQuota_of_ne s h]
  congr 2 with q : 1
  by_cases hd : q = d
  · subst hd; simp
  · simp [hd, Fin.val_ne_of_ne hd]

theorem quota_quotaMoved_giver (s : State) {p d : PortNo} (h : d ≠ p) (n : Nat) :
    (quotaMoved s p d n).quota p = { s.quota p with quota := (s.quota p).quota - n } := by
  rw [quotaMoved, State.quota_setQuota_of_ne _ h.symm, State.quota_setQuota_self]

theorem exec_giveQuota (s : State) : exec .giveQuota s = execGiveQuota s := rfl

/-- A granted GIVE_QUOTA, its parameters read from the two bytes: the count, the number of the recipient, the recipient's not being the
caller, and the unused quota are checked in turn (R21). -/
theorem exec_giveQuota_of_granted {s : State} {p : PortNo} {dest n : Byte} (h : Granted s p .giveQuota [dest, n]) :
    exec .giveQuota s = .next
      (if 1 ≤ n.toNat ∧ n.toNat ≤ 64 then
        if hd : dest.toNat < 4 then
          if (⟨dest.toNat, hd⟩ : PortNo) = p then s.refuse p .badParam
          else if (s.quota p).quota - (s.quota p).owned < n.toNat then s.refuse p .noQuota
          else
            let t := quotaMoved s p ⟨dest.toNat, hd⟩ n.toNat
            t.complete p .ok [BitVec.ofNat 8 (t.quota p).quota, BitVec.ofNat 8 (t.quota p).owned]
        else s.refuse p .badParam
      else s.refuse p .badParam) := by
  rw [exec_giveQuota, execGiveQuota, h.live_serve, giveQuotaOf_bytes]
  split_ifs with hn hd hp hq
  · simp only [hd, hp, dif_pos, if_true]
  · simp only [hd, hp, hq, dif_pos, if_true, if_false]
  · simp only [hd, hp, hq, dif_pos, if_false, quotaMoved, State.quota_setQuota_of_ne _ hp]
  · simp only [hd, dif_neg, not_false_eq_true]
  · rfl

/-- Settles O14, by the checks in the order in which the engine makes them; the units move as `quotaMoved_eq` says. -/
theorem giveQuotaMovesUnits : Obligations.GiveQuotaMovesUnits := by
  intro s p dest n h
  rw [exec_giveQuota_of_granted h]
  by_cases hn : n.toNat < 1 ∨ 64 < n.toNat
  · rw [if_neg (by omega), if_pos hn, h.refuse_eq]
  rw [if_pos (by omega), if_neg hn]
  by_cases hfour : 3 < dest.toNat
  · rw [dif_neg (by omega), if_pos (.inl hfour), h.refuse_eq]
  have hd : dest.toNat < 4 := by omega
  rw [dif_pos hd]
  by_cases hp : (⟨dest.toNat, hd⟩ : PortNo) = p
  · rw [if_pos hp, if_pos (.inr (congrArg Fin.val hp)), h.refuse_eq]
  have hother : ¬(3 < dest.toNat ∨ dest.toNat = p.val) := not_or.2 ⟨hfour, fun he => hp (Fin.ext he)⟩
  rw [if_neg hp, if_neg hother]
  by_cases hq : (s.quota p).quota - (s.quota p).owned < n.toNat
  · rw [if_pos hq, if_pos hq, h.refuse_eq]
  rw [if_neg hq, if_neg hq]
  dsimp only
  rw [quota_quotaMoved_giver s hp, h.complete_eq (port_quotaMoved ..), quotaMoved_eq s hp]

end Sys2Proof.Claims
end

section
/-! SUPPORT. TAKE_AUTHORITY and YIELD_AUTHORITY (section 5.3): the state that each reaches, by the holder of time authority. -/

namespace Sys2Proof.Claims

open Sys2Proof.Machine

/-- Authority changes hands in a field of its own, so the request is completed on the port as it was granted. -/
theorem Granted.complete_with_authority {s : State} {p : PortNo} {c : Req} {params : List Byte} (h : Granted s p c params)
    (holder : Option PortNo) (status : Status) (results : List Byte) :
    State.complete p status results { s with authority := holder } =
      completed { s with authority := holder } p c status results :=
  h.complete_eq (State.port_with_authority s holder p) status results

/-- The port number in a response to TAKE_AUTHORITY is the number itself. -/
theorem portByte_some (p : PortNo) : portByte (some p) = BitVec.ofNat 8 p.val := rfl

theorem exec_takeAuthority (s : State) : exec .takeAuthority s = execTakeAuthority s := rfl

theorem exec_yieldAuthority (s : State) : exec .yieldAuthority s = execYieldAuthority s := rfl

/-- Authority that no port holds goes to the caller (R89). -/
theorem exec_takeAuthority_of_none {s : State} {p : PortNo} (h : Granted s p .takeAuthority []) (ha : s.authority = none) :
    exec .takeAuthority s =
      .next (completed { s with authority := some p } p .takeAuthority .ok [BitVec.ofNat 8 p.val]) := by
  simp only [exec_takeAuthority, execTakeAuthority, h.live_serve, ha, portByte_some, h.complete_with_authority]

/-- Authority that a port holds stays with it: the holder is answered OK, any other port AUTH_HELD with the holder's number (R89). -/
theorem exec_takeAuthority_of_some {s : State} {p q : PortNo} (h : Granted s p .takeAuthority [])
    (ha : s.authority = some q) :
    exec .takeAuthority s = .next
      (if q = p then completed s p .takeAuthority .ok [BitVec.ofNat 8 p.val]
      else completed s p .takeAuthority .authHeld [BitVec.ofNat 8 q.val]) := by
  simp only [exec_takeAuthority, execTakeAuthority, h.live_serve, ha, portByte_some, h.complete_eq rfl]

/-- The holder's YIELD_AUTHORITY leaves no holder; any other port's is refused and moves nothing (R90). -/
theorem exec_yieldAuthority_of_granted {s : State} {p : PortNo} (h : Granted s p .yieldAuthority []) :
    exec .yieldAuthority s = .next
      (if s.authority = some p then completed { s with authority := none } p .yieldAuthority .ok []
      else completed s p .yieldAuthority .noAuthority []) := by
  rw [exec_yieldAuthority, execYieldAuthority, h.live_serve, h.complete_with_authority, h.refuse_eq]

/-- Settles O18, by the holder of authority when TAKE_AUTHORITY is served: none, or some port, the caller among them. -/
theorem authorityTakenAndYielded : Obligations.AuthorityTakenAndYielded := by
  intro s p
  refine ⟨fun h => ?_, exec_yieldAuthority_of_granted⟩
  cases ha : s.authority with
  | none => exact exec_takeAuthority_of_none h ha
  | some q => exact exec_takeAuthority_of_some h ha

end Sys2Proof.Claims
end

section
/-! SUPPORT. What the law of the edge FIFO reads of a state, and the operations that leave all of it as it is: the requests, deliveries, slot
operations, firings and teardowns, which touch no input line but for its binding list. -/

namespace Sys2Proof.Claims

open Sys2Proof.Machine

/-! ## The view -/

/-- What `State.EdgeLaw` reads of a state. -/
structure LineView where
  rstn : Bool
  fifo : List EdgeRecord
  ready : Bool
  synchronized : LineNo → Level
  processed : LineNo → Level
  owed : LineNo → Bool

/-- The Line Monitor has no record in hand (R109). -/
def atReady : MonitorPhase → Bool
  | .ready => true
  | .applying _ _ => false
  | .holding _ => false

theorem atReady_iff {m : MonitorPhase} : atReady m = true ↔ m = .ready := by
  cases m <;> simp [atReady]

/-- The view of a state. -/
def lineView (s : State) : LineView where
  rstn := s.rstn
  fifo := s.fifo
  ready := atReady s.monitor
  synchronized l := (s.input l).synchronized
  processed l := (s.input l).processed
  owed l := (s.input l).owed

/-- The law sees a state through its view alone. -/
theorem edgeLaw_of_lineView_eq {s t : State} (h : lineView t = lineView s) (hs : s.EdgeLaw) : t.EdgeLaw := by
  have hrstn : t.rstn = s.rstn := congrArg LineView.rstn h
  have hfifo : t.fifo = s.fifo := congrArg LineView.fifo h
  have hready : atReady t.monitor = atReady s.monitor := congrArg LineView.ready h
  have hsync (l) : (t.input l).synchronized = (s.input l).synchronized := congrFun (congrArg LineView.synchronized h) l
  have hproc (l) : (t.input l).processed = (s.input l).processed := congrFun (congrArg LineView.processed h) l
  have howed (l) : (t.input l).owed = (s.input l).owed := congrFun (congrArg LineView.owed h) l
  have hlast (l) : t.lastLevel l = s.lastLevel l := by simp only [State.lastLevel, hfifo, hproc]
  obtain ⟨hroom, hreset, hlevels, hhand⟩ := hs
  refine ⟨hfifo ▸ hroom, fun hr => hfifo ▸ hreset (hrstn ▸ hr), fun l ho => ?_, ?_⟩
  · rw [hlast, hsync]; exact hlevels l (howed l ▸ ho)
  · simpa only [hfifo, hproc, ← atReady_iff, hready] using hhand

/-- A change of a line that its synchronized level, its processed level and what it is owed survive is outside the view. -/
theorem lineView_setInput {s : State} {l : LineNo} {x : InputLine} (hs : x.synchronized = (s.input l).synchronized)
    (hp : x.processed = (s.input l).processed) (ho : x.owed = (s.input l).owed) : lineView (s.setInput l x) = lineView s := by
  have hread {α : Type} (f : InputLine → α) (hf : f x = f (s.input l)) (k : LineNo) :
      f ((s.setInput l x).input k) = f (s.input k) := by
    rw [State.input_setInput]; split
    · next hk => rw [hf, hk]
    · rfl
  simp only [lineView, State.setInput_rstn, State.setInput_fifo, State.setInput_monitor, hread InputLine.synchronized hs,
    hread InputLine.processed hp, hread InputLine.owed ho]

/-- A record in hand may be applied further, or be held, without a change of the view. -/
theorem lineView_with_monitor {s : State} {m : MonitorPhase} (h : atReady m = atReady s.monitor) :
    lineView { s with monitor := m } = lineView s :=
  congrArg (fun ready => { lineView s with ready }) h

/-! ## Updates and completions -/

section
variable (s : State)

@[simp] theorem lineView_with_pending (x : List Instr) : lineView { s with pending := x } = lineView s := rfl
@[simp] theorem lineView_with_time (x : TimeCount) : lineView { s with time := x } = lineView s := rfl
@[simp] theorem lineView_with_divider (x : Nat) : lineView { s with divider := x } = lineView s := rfl
@[simp] theorem lineView_with_tickDue (x : Bool) : lineView { s with tickDue := x } = lineView s := rfl
@[simp] theorem lineView_with_insertion (x : Option Insertion) : lineView { s with insertion := x } = lineView s := rfl
@[simp] theorem lineView_with_engine (x : Engine) : lineView { s with engine := x } = lineView s := rfl
@[simp] theorem lineView_with_pointer (x : PortNo) : lineView { s with pointer := x } = lineView s := rfl
@[simp] theorem lineView_setPort (p : PortNo) (x : HostPort) : lineView (s.setPort p x) = lineView s := rfl
@[simp] theorem lineView_setSlot (n : SlotNo) (x : Slot) : lineView (s.setSlot n x) = lineView s := rfl
@[simp] theorem lineView_setHeld (n : SlotNo) (r : Reservation) : lineView (s.setHeld n r) = lineView s := rfl
@[simp] theorem lineView_setQuota (p : PortNo) (x : QuotaEntry) : lineView (s.setQuota p x) = lineView s := rfl
@[simp] theorem lineView_remove (n : SlotNo) (r : Reservation) (run : Run) : lineView (s.remove n r run) = lineView s := rfl
@[simp] theorem lineView_raiseGeneration (n : SlotNo) (r : Reservation) : lineView (s.raiseGeneration n r) = lineView s := rfl
@[simp] theorem lineView_endDivision : lineView s.endDivision = lineView s := rfl
@[simp] theorem lineView_endSlew (r : Slew) : lineView (s.endSlew r) = lineView s := rfl
@[simp] theorem lineView_beginTeardown (p : PortNo) (close : Bool) : lineView (s.beginTeardown p close) = lineView s := rfl
@[simp] theorem lineView_complete (p : PortNo) (status : Status) (results : List Byte) :
    lineView (s.complete p status results) = lineView s := rfl
@[simp] theorem lineView_refuse (p : PortNo) (status : Status) : lineView (s.refuse p status) = lineView s := rfl

theorem lineView_foldl {α : Type} {f : State → α → State} (hf : ∀ s a, lineView (f s a) = lineView s) (as : List α) :
    lineView (as.foldl f s) = lineView s := by
  induction as generalizing s with
  | nil => rfl
  | cons a as ih => exact (ih (f s a)).trans (hf s a)

@[simp] theorem lineView_foldl_deliver (n : Notice) (ps : List PortNo) :
    lineView (ps.foldl (State.deliver n) s) = lineView s :=
  lineView_foldl (f := State.deliver n) s (fun _ _ => lineView_setPort ..) ps

@[simp] theorem lineView_deliverWatchers (n : Notice) (w : Vector Bool 4) : lineView (s.deliverWatchers n w) = lineView s :=
  lineView_foldl_deliver ..

@[simp] theorem lineView_deliverAll (n : Notice) (r : Reservation) : lineView (s.deliverAll n r) = lineView s :=
  lineView_deliverWatchers ..

@[simp] theorem lineView_offer {p : PortNo} {n : Option SlotNo} {op : SlotOp} {k : State → State}
    (hk : lineView (k s) = lineView s) : lineView (s.offer p n op k) = lineView s := by
  unfold State.offer; split
  · rfl
  · exact hk

/-! ## Binding lists -/

/-- A slot that leaves a binding list is taken out of the application set in hand; the record in hand stays (R39, R111). -/
@[simp] theorem lineView_unbind (n : SlotNo) (l : LineNo) : lineView (s.unbind n l) = lineView s := by
  have hlist : lineView (s.setInput l { s.input l with bindings := (s.input l).bindings.filter (· ≠ n) }) = lineView s :=
    lineView_setInput rfl rfl rfl
  unfold State.unbind; dsimp only; split
  · split
    · exact hlist
    · next h => exact (lineView_with_monitor (congrArg atReady h).symm).trans hlist
    · next h => exact (lineView_with_monitor (congrArg atReady h).symm).trans hlist
  · exact hlist

@[simp] theorem lineView_bind (n : SlotNo) (l : LineNo) : lineView (s.bind n l) = lineView s := lineView_setInput rfl rfl rfl

@[simp] theorem lineView_unbindMode (n : SlotNo) (m : Mode) : lineView (s.unbindMode n m) = lineView s := by
  unfold State.unbindMode; split <;> simp

@[simp] theorem lineView_rebind (n : SlotNo) (old new : Mode) : lineView (s.rebind n old new) = lineView s := by
  unfold State.rebind; split
  · rfl
  · dsimp only; split <;> simp

/-! ## The Deadline Queue -/

@[simp] theorem lineView_applicationDone : lineView s.applicationDone = lineView s := by
  unfold State.applicationDone; split
  · next h => exact lineView_with_monitor (congrArg atReady h).symm
  · rfl

@[simp] theorem lineView_endFiring : lineView s.endFiring = lineView s :=
  lineView_with_monitor (s := { s with firing := none }) (by cases s.monitor <;> rfl)

@[simp] theorem lineView_place (i : Insertion) : lineView (s.place i) = lineView s := by
  unfold State.place; dsimp only; split <;> rfl

@[simp] theorem lineView_finishInsert (i : Insertion) : lineView (s.finishInsert i) = lineView s := by
  unfold State.finishInsert; dsimp only; split <;> simp

@[simp] theorem lineView_insert (i : Insertion) : lineView (s.insert i) = lineView s := by
  obtain ⟨-, h⟩ | ⟨-, h⟩ := s.insert_cases i <;> simp [h]

/-! ## Release and teardown -/

@[simp] theorem lineView_release (n : SlotNo) (r : Reservation) : lineView (s.release n r) = lineView s := by
  have harmed : lineView (s.removeArmed n r) = lineView s := by
    obtain ⟨queue, h⟩ := s.removeArmed_frame n r
    rw [h]; rfl
  simp [State.release, harmed]

@[simp] theorem lineView_teardownOp (p : PortNo) (n : SlotNo) : lineView (s.teardownOp p n).1 = lineView s := by
  unfold State.teardownOp; split
  · split <;> simp
  · rfl

@[simp] theorem lineView_endTeardown (p : PortNo) (close : Bool) (released lines : Nat) :
    lineView (s.endTeardown p close released lines) = lineView s := by
  cases close <;> rfl

@[simp] theorem lineView_teardownStep : lineView s.teardownStep = lineView s := by
  by_cases h : ∃ p close released lines on, s.engine = .teardown p close released lines on
  · obtain ⟨p, close, released, lines, on, he⟩ := h
    rcases State.teardownStep_cases he with ⟨-, h⟩ | ⟨-, ⟨n, -, ⟨w, -, h⟩ | ⟨-, h⟩⟩ | ⟨-, ⟨l, -, h⟩ | ⟨-, h⟩⟩⟩ <;> rw [h]
    · rfl
    · rfl
    · exact lineView_teardownOp s p n
    · rfl
    · exact lineView_endTeardown s ..
  · rw [State.teardownStep_of_none fun p close released lines on he => h ⟨p, close, released, lines, on, he⟩]

end

@[simp] theorem lineView_runTeardown (ops : Nat) (s : State) : lineView (State.runTeardown ops s) = lineView s := by
  induction ops generalizing s with
  | zero => rfl
  | succ ops ih =>
    obtain ⟨-, h⟩ | ⟨-, h⟩ := State.runTeardown_succ ops s <;> simp [h, ih]

end Sys2Proof.Claims
end

section
/-! SUPPORT. The rows that leave what `State.EdgeLaw` reads as it is, operation by operation: the slot operations, the applications of a
record to a slot, the stages of a firing and the ticks. -/

namespace Sys2Proof.Claims

open Sys2Proof.Machine

variable (s : State)

/-! ## Slot operations -/

@[simp] theorem lineView_reserveOp (p : PortNo) : lineView (s.reserveOp p) = lineView s := by
  unfold State.reserveOp; split <;> rfl

@[simp] theorem lineView_releaseOp (p : PortNo) (n : SlotNo) : lineView (s.releaseOp p n) = lineView s := by
  unfold State.releaseOp; split <;> simp

@[simp] theorem lineView_setShareOp (p : PortNo) (n : SlotNo) (share : Share) :
    lineView (s.setShareOp p n share) = lineView s := by
  unfold State.setShareOp; split
  · rw [lineView_complete]; split
    · rfl
    · split <;> simp
  · rfl

@[simp] theorem lineView_watchOp (p : PortNo) (n : SlotNo) : lineView (s.watchOp p n) = lineView s := by
  unfold State.watchOp; split <;> rfl

@[simp] theorem lineView_unwatchOp (p : PortNo) (n : SlotNo) : lineView (s.unwatchOp p n) = lineView s := by
  unfold State.unwatchOp; split <;> rfl

@[simp] theorem lineView_queryOp (p : PortNo) (n : SlotNo) : lineView (s.queryOp p n) = lineView s := by
  unfold State.queryOp; split <;> rfl

@[simp] theorem lineView_configureOp (p : PortNo) (n : SlotNo) (mode : Mode) (tag : Word) (action : Option OutputAction) :
    lineView (s.configureOp p n mode tag action) = lineView s := by
  unfold State.configureOp; split
  · rfl
  · split_ifs <;> simp

@[simp] theorem lineView_armAt (p : PortNo) (n : SlotNo) (r : Reservation) (deadline : TimeCount) :
    lineView (s.armAt p n r deadline) = lineView s := by
  simp [State.armAt]

@[simp] theorem lineView_armIn (p : PortNo) (n : SlotNo) (r : Reservation) (run : Run) :
    lineView (s.armIn p n r run) = lineView s := rfl

@[simp] theorem lineView_armTimed (p : PortNo) (n : SlotNo) (r : Reservation) (deadline : TimeCount) (refuse : Bool) :
    lineView (s.armTimed p n r deadline refuse) = lineView s := by
  unfold State.armTimed; split <;> simp

@[simp] theorem lineView_armOp (p : PortNo) (n : SlotNo) (form : ArmForm) : lineView (s.armOp p n form) = lineView s := by
  unfold State.armOp
  cases s.held n with
  | none => rfl
  | some r =>
    dsimp only
    split_ifs
    · rfl
    · rfl
    · cases form with
      | absolute => simp
      | relative => dsimp only; split_ifs <;> simp
      | duration => dsimp only; split <;> [split_ifs; skip] <;> simp
      | none => simp

@[simp] theorem lineView_disarmOp (p : PortNo) (n : SlotNo) : lineView (s.disarmOp p n) = lineView s := by
  unfold State.disarmOp; split
  · rfl
  · dsimp only; split_ifs <;> simp

@[simp] theorem lineView_takeOp (p : PortNo) (op : SlotOp) : lineView (s.takeOp p op) = lineView s := by
  cases op <;> simp [State.takeOp]

/-! ## Requests -/

@[simp] theorem lineView_ownerRequest {p : PortNo} {v : Nat} {op : SlotNo → SlotOp} {k : SlotNo → State → State}
    (hk : ∀ n, lineView (k n s) = lineView s) : lineView (s.ownerRequest p v op k) = lineView s := by
  unfold State.ownerRequest; split
  · rfl
  · split_ifs <;> simp [hk]

theorem lineView_withAuthority {α : Type} {p : PortNo} {params : Option α} {k : α → State → State}
    (hk : ∀ a, lineView (k a s) = lineView s) : lineView (s.withAuthority p params k) = lineView s := by
  unfold State.withAuthority; split
  · rfl
  · split_ifs <;> simp [hk]

theorem lineView_serve {c : Req} {k : PortNo → List Byte → State → State}
    (hk : ∀ p params, lineView (k p params s) = lineView s) : lineView (s.serve c k) = lineView s := by
  rcases s.serve_cases c k with h | ⟨p, f, -, -, -, ⟨-, h⟩ | ⟨-, -, -, h⟩ | ⟨-, -, h⟩⟩ <;> simp [h, hk]

@[simp] theorem lineView_resumeEngine (pause : Option Nat) : lineView (s.resumeEngine pause) = lineView s := by
  unfold State.resumeEngine; split <;> simp

theorem lineView_takeTransaction (p : PortNo) (k : HostPort → HostPort) : lineView (s.takeTransaction p k) = lineView s := by
  unfold State.takeTransaction; split <;> rfl

/-! ## The application of a record to a slot -/

@[simp] theorem lineView_applyGated (rec : EdgeRecord) (n : SlotNo) (r : Reservation) (active : Level) :
    lineView (s.applyGated rec n r active) = lineView s := by
  unfold State.applyGated; split <;> simp

@[simp] theorem lineView_startTriggered (rec : EdgeRecord) (n : SlotNo) (r : Reservation) (delay : Word) :
    lineView (s.startTriggered rec n r delay) = lineView s := by
  simp [State.startTriggered]

@[simp] theorem lineView_applyTriggered (rec : EdgeRecord) (n : SlotNo) (r : Reservation) (edge : TriggerEdge) (delay : Word)
    (restart : Bool) : lineView (s.applyTriggered rec n r edge delay restart) = lineView s := by
  unfold State.applyTriggered; split_ifs
  · split <;> simp
  · simp

@[simp] theorem lineView_openWindow (rec : EdgeRecord) (n : SlotNo) (limit : Word) :
    lineView (s.openWindow rec n limit) = lineView s :=
  lineView_insert ..

@[simp] theorem lineView_endWindow (n : SlotNo) (r : Reservation) (rewait again : Bool) :
    lineView (s.endWindow n r rewait again) = lineView s := by
  unfold State.endWindow; split <;> rfl

@[simp] theorem lineView_reportWindow (rec : EdgeRecord) (n : SlotNo) (r : Reservation) (kind : NoticeKind) (wanted : Bool)
    (start : TimeCount) (rewait : Bool) : lineView (s.reportWindow rec n r kind wanted start rewait) = lineView s := by
  unfold State.reportWindow; split_ifs <;> simp

@[simp] theorem lineView_closeWindow (rec : EdgeRecord) (n : SlotNo) (r : Reservation) (kind : NoticeKind) (wanted : Bool)
    (start : TimeCount) (rewait reopen : Bool) (limit : Word) :
    lineView (s.closeWindow rec n r kind wanted start rewait reopen limit) = lineView s := by
  unfold State.closeWindow; dsimp only; split_ifs <;> simp

@[simp] theorem lineView_applyWindow (rec : EdgeRecord) (n : SlotNo) (r : Reservation) (startEdge endEdge : Direction)
    (limit : Word) (report : ReportSet) (rewait : Bool) :
    lineView (s.applyWindow rec n r startEdge endEdge limit report rewait) = lineView s := by
  unfold State.applyWindow; dsimp only; split_ifs
  · simp
  · split <;> simp
  · simp

@[simp] theorem lineView_applyRecord (rec : EdgeRecord) (n : SlotNo) : lineView (s.applyRecord rec n) = lineView s := by
  unfold State.applyRecord; split
  · simp
  · split <;> simp

@[simp] theorem lineView_offerApplication : lineView s.offerApplication = lineView s := by
  unfold State.offerApplication; split
  · next hm _ =>
    split
    · rfl
    · exact lineView_with_monitor (congrArg atReady hm).symm
    · simp
  · rfl

/-! ## Firings -/

@[simp] theorem lineView_carryFiring (upTo : FiringStage) : lineView (s.carryFiring upTo) = lineView s := by
  obtain ⟨ports, firing, outputs, h, -⟩ := s.carryFiring_frame upTo
  rw [h]; rfl

@[simp] theorem lineView_settle : lineView s.settle = lineView s := by
  unfold State.settle; split
  · split
    · dsimp only; split <;> simp
    · simp
  · rfl

/-! ## Ticks -/

@[simp] theorem lineView_advance (doneFirst : Bool) : lineView (s.advance doneFirst) = lineView s := by
  unfold State.advance; split
  · rfl
  · dsimp only; split_ifs <;> rfl

end Sys2Proof.Claims
end

section
/-! SUPPORT. The edge FIFO (sections 6.3 and 6.4): what a recognition, the leaving of a record, the take of a record and device reset do to
the levels of the lines, and that every command keeps `State.EdgeLaw`. -/

namespace Sys2Proof.Claims

open Sys2Proof.Machine

/-! ## The level after the records of a FIFO -/

/-- The level at which the records of `fifo` leave line `l`, when it stands at `level` before them. -/
def levelAfter (fifo : List EdgeRecord) (l : LineNo) (level : Level) : Level :=
  fifo.foldl (fun v r => if r.line = l then r.direction.level else v) level


theorem levelAfter_cons (rec : EdgeRecord) (fifo : List EdgeRecord) (l : LineNo) (level : Level) :
    levelAfter (rec :: fifo) l level = levelAfter fifo l (if rec.line = l then rec.direction.level else level) := rfl

theorem levelAfter_append (fifo : List EdgeRecord) (rec : EdgeRecord) (l : LineNo) (level : Level) :
    levelAfter (fifo ++ [rec]) l level = if rec.line = l then rec.direction.level else levelAfter fifo l level := by
  simp [levelAfter]

/-- Without a record of the line its level stays. -/
theorem levelAfter_of_not_queued {s : State} {l : LineNo} (h : s.lineQueued l = false) (level : Level) :
    levelAfter s.fifo l level = level := by
  have hline : ∀ r ∈ s.fifo, r.line ≠ l := by simpa [State.lineQueued] using h
  generalize s.fifo = fifo at hline
  induction fifo with
  | nil => rfl
  | cons r fifo ih =>
    rw [levelAfter_cons, if_neg (hline r List.mem_cons_self), ih fun x hx => hline x (List.mem_cons_of_mem r hx)]

/-- The last record decides: `levelAfter` is the law's `State.lastLevel`. -/
theorem lastLevel_eq_levelAfter (s : State) (l : LineNo) : s.lastLevel l = levelAfter s.fifo l (s.input l).processed := by
  unfold State.lastLevel
  generalize (s.input l).processed = level
  induction s.fifo using List.reverseRecOn with
  | nil => rfl
  | append_singleton fifo rec ih =>
    rw [levelAfter_append, ← ih, List.filter_append]
    by_cases h : rec.line = l <;> simp [h]

@[simp] theorem level_direction (level : Level) : level.direction.level = level := by cases level <;> rfl

/-! ## The law of a part that is not in reset -/

/-- `State.EdgeLaw` while RSTn is negated, by its parts. -/
structure LiveEdgeLaw (s : State) : Prop where
  live : s.rstn = false
  room : s.fifo.length ≤ 16
  levels : ∀ l, (s.input l).owed = false → levelAfter s.fifo l (s.input l).processed = (s.input l).synchronized
  inHand : s.monitor = .ready ∨ ∃ rec ∈ s.fifo.head?, (s.input rec.line).processed = rec.direction.level

theorem liveEdgeLaw_iff {s : State} : LiveEdgeLaw s ↔ s.rstn = false ∧ s.EdgeLaw := by
  simp only [State.EdgeLaw, lastLevel_eq_levelAfter]
  constructor
  · rintro ⟨live, room, levels, inHand⟩
    exact ⟨live, room, by simp [live], levels, inHand⟩
  · rintro ⟨live, room, -, levels, inHand⟩
    exact ⟨live, room, levels, inHand⟩

theorem LiveEdgeLaw.of_lineView_eq {s t : State} (h : lineView t = lineView s) (hs : LiveEdgeLaw s) : LiveEdgeLaw t := by
  obtain ⟨live, law⟩ := liveEdgeLaw_iff.1 hs
  exact liveEdgeLaw_iff.2 ⟨(congrArg LineView.rstn h).trans live, edgeLaw_of_lineView_eq h law⟩

section
variable {s : State}

/-- A line may be rewritten without a record when it is owed its level or agrees with the records that it has, and when it keeps its
processed level or has no record at all. -/
theorem LiveEdgeLaw.setInput (hs : LiveEdgeLaw s) {l : LineNo} {x : InputLine}
    (hp : x.processed = (s.input l).processed ∨ s.lineQueued l = false)
    (hl : x.owed = false → levelAfter s.fifo l x.processed = x.synchronized) : LiveEdgeLaw (s.setInput l x) where
  live := hs.live
  room := hs.room
  levels k := by
    rw [State.input_setInput]; split
    · next hk => subst hk; exact hl
    · exact hs.levels k
  inHand := by
    refine hs.inHand.imp_right fun ⟨rec, hrec, hlevel⟩ => ⟨rec, hrec, ?_⟩
    rw [State.input_setInput]; split
    · next hk =>
      subst hk
      obtain hp | hq := hp
      · rw [hp, hlevel]
      · have hqueued : s.lineQueued rec.line = true :=
          List.any_eq_true.2 ⟨rec, List.mem_of_mem_head? hrec, beq_self_eq_true _⟩
        exact absurd (hqueued.symm.trans hq) nofun
    · exact hlevel

/-- A line without a record settles at any level (R105, R108). -/
theorem LiveEdgeLaw.settle (hs : LiveEdgeLaw s) {l : LineNo} (hq : s.lineQueued l = false) (level : Level) :
    LiveEdgeLaw (s.setInput l ((s.input l).settle level)) :=
  hs.setInput (.inr hq) fun _ => levelAfter_of_not_queued hq level

/-- A record enters a FIFO with room and brings its line to the line's synchronized level (R106, R108). -/
theorem LiveEdgeLaw.enter (hs : LiveEdgeLaw s) {l : LineNo} {x : InputLine} {rec : EdgeRecord}
    (hroom : s.fifo.length < 16) (hline : rec.line = l) (hp : x.processed = (s.input l).processed)
    (hrec : rec.direction.level = x.synchronized) : LiveEdgeLaw { s.setInput l x with fifo := s.fifo ++ [rec] } where
  live := hs.live
  room := by simpa using hroom
  levels k := by
    dsimp only
    rw [State.input_with_fifo, State.input_setInput, levelAfter_append]; split
    · next hk => subst hk; rw [if_pos hline]; exact fun _ => hrec
    · next hk => rw [if_neg fun h => hk (h.symm.trans hline)]; exact hs.levels k
  inHand := by
    refine hs.inHand.imp_right fun ⟨head, hhead, hlevel⟩ => ⟨head, ?_, ?_⟩
    · rw [List.head?_append, Option.mem_def.1 hhead]; rfl
    · rw [State.input_with_fifo, State.input_setInput]; split
      · next hk => subst hk; rw [hp, hlevel]
      · exact hlevel

/-- A line that the model finds without binding and record has no record. -/
theorem not_queued_of_idle {l : LineNo} (h : ((s.input l).bindings.isEmpty && !s.lineQueued l) = true) :
    s.lineQueued l = false := by
  simpa using (Bool.and_eq_true_iff.1 h).2

/-- A recognized edge is not queued, enters the FIFO, or is dropped with the line owed its level (R104, R105, R107). -/
theorem LiveEdgeLaw.recognize (hs : LiveEdgeLaw s) (l : LineNo) : LiveEdgeLaw (s.recognize l) := by
  unfold State.recognize; dsimp only; split_ifs with hsettled hroom
  · exact hs.settle (not_queued_of_idle hsettled) _
  · exact hs.enter hroom rfl rfl (level_direction _)
  · exact hs.setInput (.inl rfl) nofun

theorem LiveEdgeLaw.recognizeAll (hs : LiveEdgeLaw s) (ls : List LineNo) : LiveEdgeLaw (s.recognizeAll ls) := by
  induction ls generalizing s with
  | nil => exact hs
  | cons l ls ih =>
    refine ih ?_
    dsimp only; split
    · exact hs.recognize l
    · exact hs

/-- A free place goes to the first owed line that needs one; owed lines without binding or record settle (R108). -/
theorem LiveEdgeLaw.offerPlace (hs : LiveEdgeLaw s) (ls : List LineNo) : LiveEdgeLaw (State.offerPlace ls s) := by
  induction ls generalizing s with
  | nil => exact hs
  | cons l ls ih =>
    unfold State.offerPlace; dsimp only; split_ifs with howed hsettled hroom
    · exact ih (hs.settle (not_queued_of_idle hsettled) _)
    · exact hs.enter hroom rfl rfl (level_direction _)
    · exact hs
    · exact ih hs

/-- The level of the record in hand is processed, so that its leaving changes no line's last level (R111, R113). -/
theorem LiveEdgeLaw.dropHead (hs : LiveEdgeLaw s) (hm : s.monitor ≠ .ready) :
    LiveEdgeLaw { s with fifo := s.fifo.tail, monitor := .ready } := by
  obtain ⟨rec, hrec, hlevel⟩ := hs.inHand.resolve_left hm
  obtain ⟨rest, hfifo⟩ : ∃ rest, s.fifo = rec :: rest := List.head?_eq_some_iff.1 hrec
  have htail : s.fifo.tail = rest := by rw [hfifo]; rfl
  have hlast (l : LineNo) : levelAfter s.fifo l (s.input l).processed = levelAfter rest l (s.input l).processed := by
    rw [hfifo, levelAfter_cons]; split
    · next hl => rw [← hl, hlevel]
    · rfl
  refine ⟨hs.live, ?_, fun l ho => ?_, .inl rfl⟩
  · exact (List.tail_sublist s.fifo).length_le.trans hs.room
  · dsimp only
    rw [htail]; exact (hlast l).symm.trans (hs.levels l ho)

theorem LiveEdgeLaw.leaveIfApplied (hs : LiveEdgeLaw s) (early : Nat) : LiveEdgeLaw (s.leaveIfApplied early) := by
  unfold State.leaveIfApplied; split
  · next hm => exact ((hs.dropHead (by simp [hm])).recognizeAll _).offerPlace _
  · exact hs

/-- The next REFCLK edge recognizes what still waits, and moves the synchronizers' stages alone (R103). -/
theorem LiveEdgeLaw.sampleInputs (hs : LiveEdgeLaw s) (pins : BitVec 8) : LiveEdgeLaw (s.sampleInputs pins) := by
  refine (hs.recognizeAll allLines).of_lineView_eq ?_
  simp [State.sampleInputs, lineView, State.input, InputLine.sample]

theorem LiveEdgeLaw.takeTick (hs : LiveEdgeLaw s) (early : Nat) (doneFirst : Bool) : LiveEdgeLaw (s.takeTick early doneFirst) :=
  (hs.recognizeAll (allLines.filter fun l => l.val < early)).of_lineView_eq (by simp [State.takeTick, State.recognizeBelow])

theorem LiveEdgeLaw.tick (hs : LiveEdgeLaw s) (pins : BitVec 8) (early : Nat) (doneFirst : Bool) :
    LiveEdgeLaw (s.tick pins early doneFirst) := by
  unfold State.tick; split_ifs
  · exact hs.takeTick ..
  · exact (hs.sampleInputs pins).takeTick ..
  · exact hs

theorem LiveEdgeLaw.refclkEdge (hs : LiveEdgeLaw s) (pins : BitVec 8) (tickLater : Bool) :
    LiveEdgeLaw (s.refclkEdge pins tickLater) := by
  unfold State.refclkEdge; split_ifs
  · exact (hs.sampleInputs pins).of_lineView_eq (lineView_with_tickDue ..)
  · exact (hs.sampleInputs pins).takeTick ..
  · exact (hs.sampleInputs pins).of_lineView_eq (lineView_with_divider ..)

/-- The report of lost edges sends notices and clears the lost count of the line (R110). -/
theorem lineView_reportLost (rec : EdgeRecord) (s : State) : lineView (s.reportLost rec) = lineView s := by
  unfold State.reportLost; dsimp only; split_ifs
  · rfl
  · rw [lineView_setInput (by rfl) (by rfl) (by rfl)]
    refine lineView_foldl s (fun t n => ?_) _
    split <;> rfl

/-- The take of the head record processes its level, which the record gives its line in any case (R111). -/
theorem LiveEdgeLaw.take (hs : LiveEdgeLaw s) {rec : EdgeRecord} {rest : List EdgeRecord} (hfifo : s.fifo = rec :: rest)
    (m : MonitorPhase) :
    LiveEdgeLaw { s.setInput rec.line { s.input rec.line with processed := rec.direction.level } with monitor := m } where
  live := hs.live
  room := hs.room
  levels k := by
    have hk := hs.levels k
    rw [hfifo, levelAfter_cons] at hk
    dsimp only
    rw [State.input_with_monitor, State.input_setInput, State.setInput_fifo, hfifo, levelAfter_cons]
    split
    · next h => subst h; simpa using hk
    · exact hk
  inHand := .inr ⟨rec, List.head?_eq_some_iff.2 ⟨rest, hfifo⟩, by rw [State.input_with_monitor, State.input_setInput_self]⟩

end

end Sys2Proof.Claims
end

section
/-! SUPPORT. That every command keeps `State.EdgeLaw` (R106, R111, R114), command by command, and O56. -/

namespace Sys2Proof.Claims

open Sys2Proof.Machine

/-! ## Outcomes -/

/-- This outcome of a command that met `s` keeps the law. -/
def KeepsEdgeLaw (s : State) (o : Host.Outcome State Fault Refusal) : Prop := ∀ s', o = .next s' → s.EdgeLaw → s'.EdgeLaw

theorem keepsEdgeLaw_next {s t : State} (h : s.EdgeLaw → t.EdgeLaw) : KeepsEdgeLaw s (.next t) := by
  rintro s' ⟨⟩; exact h

theorem keepsEdgeLaw_of_lineView_eq {s t : State} (h : lineView t = lineView s) : KeepsEdgeLaw s (.next t) :=
  keepsEdgeLaw_next (edgeLaw_of_lineView_eq h)

section
variable {s : State} {f : State → State}

/-- A command of the living part keeps the law when it does so with RSTn negated (R168). -/
theorem keepsEdgeLaw_live (h : LiveEdgeLaw s → LiveEdgeLaw (f s)) : KeepsEdgeLaw s (s.live f) := by
  cases hr : s.rstn with
  | true => rw [State.live_of_rstn hr]; exact keepsEdgeLaw_next id
  | false =>
    rw [State.live_of_not_rstn hr]
    exact keepsEdgeLaw_next fun hs => (liveEdgeLaw_iff.1 (h (liveEdgeLaw_iff.2 ⟨hr, hs⟩))).2

theorem keepsEdgeLaw_live_of_lineView_eq (h : lineView (f s) = lineView s) : KeepsEdgeLaw s (s.live f) :=
  keepsEdgeLaw_live (.of_lineView_eq h)

/-- The row of a request keeps the law when the request's own work leaves the view as it is. -/
theorem keepsEdgeLaw_serve {c : Req} {k : PortNo → List Byte → State → State}
    (hk : ∀ p params, lineView (k p params s) = lineView s) : KeepsEdgeLaw s (s.live fun s => s.serve c k) :=
  keepsEdgeLaw_live_of_lineView_eq (lineView_serve s hk)

end

/-- With an empty FIFO and no record in hand the law asks each line for equal levels. -/
theorem edgeLaw_of_empty {s : State} (hfifo : s.fifo = []) (hm : s.monitor = .ready)
    (h : ∀ l, (s.input l).processed = (s.input l).synchronized) : s.EdgeLaw := by
  refine ⟨by simp [hfifo], fun _ => hfifo, fun l _ => ?_, .inl hm⟩
  rw [lastLevel_eq_levelAfter, hfifo]; exact h l

/-- Device reset empties the FIFO and sets every line to its second stage (R122, R168). -/
theorem edgeLaw_deviceReset (s : State) (rstn : Bool) (straps : BitVec 2) (quota : PortNo → Nat) :
    (s.deviceReset rstn straps quota).EdgeLaw :=
  edgeLaw_of_empty rfl rfl fun l => by simp [State.deviceReset, State.input, InputLine.reset]

variable (s : State)

/-! ## Requests -/

theorem execReserve_keepsEdgeLaw : KeepsEdgeLaw s (execReserve s) :=
  keepsEdgeLaw_serve fun p _ => by split_ifs <;> simp

theorem execSetShare_keepsEdgeLaw : KeepsEdgeLaw s (execSetShare s) :=
  keepsEdgeLaw_serve fun p params => by split <;> simp

theorem execWatch_keepsEdgeLaw : KeepsEdgeLaw s (execWatch s) :=
  keepsEdgeLaw_serve fun p params => by
    split
    · rfl
    · split_ifs <;> simp

theorem execUnwatch_keepsEdgeLaw : KeepsEdgeLaw s (execUnwatch s) :=
  keepsEdgeLaw_serve fun p params => by
    split
    · rfl
    · split_ifs <;> simp

theorem execQuery_keepsEdgeLaw : KeepsEdgeLaw s (execQuery s) :=
  keepsEdgeLaw_serve fun p params => by
    split
    · rfl
    · split_ifs <;> simp

theorem execGiveQuota_keepsEdgeLaw : KeepsEdgeLaw s (execGiveQuota s) :=
  keepsEdgeLaw_serve fun p params => by
    split
    · rfl
    · split_ifs <;> rfl

theorem execConfigure_keepsEdgeLaw : KeepsEdgeLaw s (execConfigure s) :=
  keepsEdgeLaw_serve fun p params => by split <;> simp

theorem execArm_keepsEdgeLaw : KeepsEdgeLaw s (execArm s) :=
  keepsEdgeLaw_serve fun p params => by split <;> simp

theorem execTakeAuthority_keepsEdgeLaw : KeepsEdgeLaw s (execTakeAuthority s) :=
  keepsEdgeLaw_serve fun p params => by
    split
    · rfl
    · split_ifs <;> rfl

theorem execYieldAuthority_keepsEdgeLaw : KeepsEdgeLaw s (execYieldAuthority s) :=
  keepsEdgeLaw_serve fun p params => by split_ifs <;> rfl

theorem execStepTime_keepsEdgeLaw : KeepsEdgeLaw s (execStepTime s) :=
  keepsEdgeLaw_serve fun p params => lineView_withAuthority s fun delta => by split_ifs <;> simp

theorem execSlew_keepsEdgeLaw : KeepsEdgeLaw s (execSlew s) :=
  keepsEdgeLaw_serve fun p params => lineView_withAuthority s fun (amount, span) => by dsimp only; split_ifs <;> rfl

theorem execCancelSlew_keepsEdgeLaw : KeepsEdgeLaw s (execCancelSlew s) :=
  keepsEdgeLaw_serve fun p params => lineView_withAuthority s fun _ => by split <;> rfl

theorem execClaimOutput_keepsEdgeLaw : KeepsEdgeLaw s (execClaimOutput s) :=
  keepsEdgeLaw_serve fun p params => by
    split
    · rfl
    · dsimp only; split
      · split_ifs <;> rfl
      · rfl

theorem execDriveOutput_keepsEdgeLaw : KeepsEdgeLaw s (execDriveOutput s) :=
  keepsEdgeLaw_serve fun p params => by
    split
    · rfl
    · dsimp only; split_ifs <;> rfl

theorem execReleaseOutput_keepsEdgeLaw : KeepsEdgeLaw s (execReleaseOutput s) :=
  keepsEdgeLaw_serve fun p params => by
    split
    · rfl
    · dsimp only; split_ifs <;> rfl

theorem execSetAttention_keepsEdgeLaw : KeepsEdgeLaw s (execSetAttention s) :=
  keepsEdgeLaw_serve fun p params => by split <;> rfl

theorem execOpenSession_keepsEdgeLaw : KeepsEdgeLaw s (execOpenSession s) :=
  keepsEdgeLaw_serve fun p params => by dsimp only; split <;> rfl

theorem execPortArbiterGrant_keepsEdgeLaw (pause : Option Nat) : KeepsEdgeLaw s (execPortArbiterGrant pause s) :=
  keepsEdgeLaw_live_of_lineView_eq <| by
    split
    · dsimp only; split
      · split_ifs <;> rfl
      · simp
    · rfl

/-! ## Links and pins -/

theorem execFetchEnd_keepsEdgeLaw (p : PortNo) : KeepsEdgeLaw s (execFetchEnd p s) :=
  keepsEdgeLaw_live_of_lineView_eq <| by split <;> rfl

theorem execDoNothingTransaction_keepsEdgeLaw (p : PortNo) (selector : Byte) :
    KeepsEdgeLaw s (execDoNothingTransaction p selector s) :=
  keepsEdgeLaw_live_of_lineView_eq <| by
    split_ifs
    · rfl
    · exact lineView_takeTransaction ..

theorem execPrstnAssert_keepsEdgeLaw (p : PortNo) : KeepsEdgeLaw s (execPrstnAssert p s) :=
  keepsEdgeLaw_of_lineView_eq <| by split_ifs <;> rfl

theorem execPrstnRelease_keepsEdgeLaw (p : PortNo) : KeepsEdgeLaw s (execPrstnRelease p s) :=
  keepsEdgeLaw_of_lineView_eq <| by split_ifs <;> rfl

theorem execRstnAssert_keepsEdgeLaw : KeepsEdgeLaw s (execRstnAssert s) :=
  keepsEdgeLaw_next fun hs => by
    split_ifs
    · exact hs
    · exact edgeLaw_deviceReset ..

theorem execRstnRelease_keepsEdgeLaw (straps : BitVec 2) : KeepsEdgeLaw s (execRstnRelease straps s) :=
  keepsEdgeLaw_next fun hs => by
    split_ifs
    · exact edgeLaw_deviceReset ..
    · exact hs

/-! ## The timebase -/

theorem execSlewEnd_keepsEdgeLaw (pins : BitVec 8) (early : Nat) (doneFirst : Bool) :
    KeepsEdgeLaw s (execSlewEnd pins early doneFirst s) :=
  keepsEdgeLaw_live fun hs => by
    split
    · exact hs
    · split_ifs
      · exact hs.of_lineView_eq (lineView_endSlew ..)
      · exact hs.tick ..
      · exact hs

/-- While RSTn is asserted the FIFO is empty and a sampled line has the same level throughout (R122). -/
theorem execRefclkRisingEdge_keepsEdgeLaw (pins : BitVec 8) (tickLater : Bool) :
    KeepsEdgeLaw s (execRefclkRisingEdge pins s tickLater) :=
  keepsEdgeLaw_next fun hs => by
    split_ifs with hr hd
    · obtain ⟨-, hreset, -, hhand⟩ := hs
      have hfifo := hreset hr
      exact edgeLaw_of_empty hfifo (by simpa [hfifo] using hhand) fun l => by simp [State.input]
    all_goals have live : LiveEdgeLaw s := liveEdgeLaw_iff.2 ⟨by simpa using hr, hs⟩
    · exact (liveEdgeLaw_iff.1 ((live.takeTick 0 false).refclkEdge pins tickLater)).2
    · exact (liveEdgeLaw_iff.1 (live.refclkEdge pins tickLater)).2

theorem execHoldoffExpired_keepsEdgeLaw (p : PortNo) : KeepsEdgeLaw s (execHoldoffExpired p s) :=
  keepsEdgeLaw_live_of_lineView_eq <| by split_ifs <;> rfl

/-! ## The Line Monitor -/

theorem execEdgeRecognized_keepsEdgeLaw (line : LineNo) : KeepsEdgeLaw s (execEdgeRecognized line s) :=
  keepsEdgeLaw_live fun hs => by
    split_ifs
    · exact hs.recognize line
    · exact hs

theorem execRecordTake_keepsEdgeLaw (early : Nat) : KeepsEdgeLaw s (execRecordTake s early) :=
  keepsEdgeLaw_live fun hs => by
    split
    · next rec rest _ hfifo =>
      have hreport := lineView_reportLost rec s
      have hfifo' : (s.reportLost rec).fifo = rec :: rest := (congrArg LineView.fifo hreport).trans hfifo
      exact ((hs.of_lineView_eq hreport).take hfifo' _).leaveIfApplied early
    · exact hs

variable {s} in
theorem LiveEdgeLaw.goOn (hs : LiveEdgeLaw s) (early : Nat) : LiveEdgeLaw (s.goOn early) :=
  (hs.of_lineView_eq (lineView_offerApplication s)).leaveIfApplied early

theorem execSecondStageOperation_keepsEdgeLaw (client : Client) (pause : Option Nat) (early : Nat) :
    KeepsEdgeLaw s (execSecondStageOperation client pause s early) :=
  keepsEdgeLaw_live fun hs => by
    cases client with
    | engine => exact hs.of_lineView_eq (lineView_resumeEngine s pause)
    | lineMonitor =>
      dsimp only; split
      · exact hs.goOn early
      · exact hs

theorem execInsertCompletion_keepsEdgeLaw (early : Nat) : KeepsEdgeLaw s (execInsertCompletion s early) :=
  keepsEdgeLaw_live fun hs => by
    split
    · next i _ =>
      have hi := hs.of_lineView_eq (lineView_finishInsert s i)
      split
      · exact hi.leaveIfApplied early
      · exact hi
    · exact hs

/-! ## The Dispatch Unit -/

theorem execTakeHead_keepsEdgeLaw (upTo : FiringStage) : KeepsEdgeLaw s (execTakeHead s upTo) :=
  keepsEdgeLaw_live_of_lineView_eq <| by
    split
    · split_ifs
      · split
        · exact lineView_carryFiring ..
        · rfl
      · rfl
    · rfl

theorem execSettling_keepsEdgeLaw (upTo : Option FiringStage) : KeepsEdgeLaw s (execSettling s upTo) :=
  keepsEdgeLaw_live_of_lineView_eq <| by split <;> simp

/-! ## Every command -/

theorem exec_keepsEdgeLaw (c : Instr) : KeepsEdgeLaw s (exec c s) := by
  cases c with
  | openSession => exact execOpenSession_keepsEdgeLaw s
  | closeSession pause => exact keepsEdgeLaw_serve fun _ _ => by simp
  | reserve => exact execReserve_keepsEdgeLaw s
  | release => exact keepsEdgeLaw_serve fun _ _ => by simp
  | setShare => exact execSetShare_keepsEdgeLaw s
  | watch => exact execWatch_keepsEdgeLaw s
  | unwatch => exact execUnwatch_keepsEdgeLaw s
  | query => exact execQuery_keepsEdgeLaw s
  | giveQuota => exact execGiveQuota_keepsEdgeLaw s
  | configure => exact execConfigure_keepsEdgeLaw s
  | arm => exact execArm_keepsEdgeLaw s
  | disarm => exact keepsEdgeLaw_serve fun _ _ => by simp
  | takeAuthority => exact execTakeAuthority_keepsEdgeLaw s
  | yieldAuthority => exact execYieldAuthority_keepsEdgeLaw s
  | stepTime => exact execStepTime_keepsEdgeLaw s
  | slew => exact execSlew_keepsEdgeLaw s
  | cancelSlew => exact execCancelSlew_keepsEdgeLaw s
  | setDivisor => exact keepsEdgeLaw_serve fun _ _ => lineView_withAuthority s fun _ => rfl
  | claimOutput => exact execClaimOutput_keepsEdgeLaw s
  | driveOutput => exact execDriveOutput_keepsEdgeLaw s
  | releaseOutput => exact execReleaseOutput_keepsEdgeLaw s
  | setAttention => exact execSetAttention_keepsEdgeLaw s
  | submit p bytes => exact keepsEdgeLaw_live_of_lineView_eq (lineView_takeTransaction ..)
  | fetch p => exact keepsEdgeLaw_live_of_lineView_eq (lineView_takeTransaction ..)
  | fetchEnd p => exact execFetchEnd_keepsEdgeLaw s p
  | peek p offset => exact keepsEdgeLaw_live_of_lineView_eq (lineView_takeTransaction ..)
  | ack p seq => exact keepsEdgeLaw_live_of_lineView_eq (lineView_takeTransaction ..)
  | time p => exact keepsEdgeLaw_live_of_lineView_eq (lineView_takeTransaction ..)
  | portstat p => exact keepsEdgeLaw_live_of_lineView_eq (lineView_takeTransaction ..)
  | doNothingTransaction p selector => exact execDoNothingTransaction_keepsEdgeLaw s p selector
  | chipSelectNegation p => exact keepsEdgeLaw_of_lineView_eq (lineView_setPort ..)
  | prstnAssert p => exact execPrstnAssert_keepsEdgeLaw s p
  | prstnRelease p => exact execPrstnRelease_keepsEdgeLaw s p
  | rstnAssert => exact execRstnAssert_keepsEdgeLaw s
  | rstnRelease straps => exact execRstnRelease_keepsEdgeLaw s straps
  | tickEvent pins early doneFirst => exact keepsEdgeLaw_live fun hs => hs.tick pins early doneFirst
  | slewEnd pins early doneFirst => exact execSlewEnd_keepsEdgeLaw s pins early doneFirst
  | holdoffExpired p => exact execHoldoffExpired_keepsEdgeLaw s p
  | edgeRecognized line => exact execEdgeRecognized_keepsEdgeLaw s line
  | recordTake early => exact execRecordTake_keepsEdgeLaw s early
  | edgeApplication early => exact keepsEdgeLaw_live fun hs => hs.goOn early
  | portArbiterGrant pause => exact execPortArbiterGrant_keepsEdgeLaw s pause
  | secondStageOperation client pause early => exact execSecondStageOperation_keepsEdgeLaw s client pause early
  | takeHead upTo => exact execTakeHead_keepsEdgeLaw s upTo
  | settling upTo => exact execSettling_keepsEdgeLaw s upTo
  | insertCompletion early => exact execInsertCompletion_keepsEdgeLaw s early
  | chipSelectAssertion p => exact keepsEdgeLaw_of_lineView_eq (lineView_setPort ..)
  | refclkRisingEdge pins tickLater => exact execRefclkRisingEdge_keepsEdgeLaw s pins tickLater

/-- Settles O56: what the law reads changes at recognitions, leavings and takes of records and at device reset, and each of these keeps
it; the queue of commands is no part of it. -/
theorem lineLevelsAgree : Obligations.LineLevelsAgree := by
  intro s s' hs hstep
  cases hp : s.pending with
  | nil =>
    have hidle : step s = .next s := by simp [step, hp]
    rw [hidle] at hstep
    exact keepsEdgeLaw_next id s' hstep hs
  | cons c rest =>
    rw [step_cons hp] at hstep
    exact exec_keepsEdgeLaw _ c s' hstep (edgeLaw_of_lineView_eq (lineView_with_pending s rest) hs)

end Sys2Proof.Claims
end

section
/-! SUPPORT. CLAIM_OUTPUT, DRIVE_OUTPUT and RELEASE_OUTPUT (section 6.6): the line and the level that their parameters name, the line's
claim, and the output actions that name it. -/

namespace Sys2Proof.Claims

open Sys2Proof.Machine

/-! ## Parameters -/

theorem lineOf_none {v : Nat} (h : 7 < v) : lineOf v = none := dif_neg (by omega)

@[simp] theorem lineOf_val (l : LineNo) : lineOf l.val = some l := dif_pos l.isLt

/-- A line number survives its byte. -/
theorem toNat_lineByte (l : LineNo) : (BitVec.ofNat 8 l.val).toNat = l.val := by
  rw [BitVec.toNat_ofNat]; omega

theorem level_ofCode_code (level : Level) : Level.ofCode level.code.toNat = some level := by cases level <;> rfl

theorem level_ofCode_none {x : Nat} (h : 1 < x) : Level.ofCode x = none := by
  match x with
  | x + 2 => rfl

/-- The two bytes of CLAIM_OUTPUT and DRIVE_OUTPUT are read one after the other. -/
theorem lineLevelOf_eq_bind (v x : Byte) :
    lineLevelOf [v, x] = (lineOf v.toNat).bind fun l => (Level.ofCode x.toNat).bind fun level => some (l, level) := rfl

/-- A line above 7 or a level above 1 is out of range (R116). -/
theorem lineLevelOf_none {v x : Byte} (h : 7 < v.toNat ∨ 1 < x.toNat) : lineLevelOf [v, x] = none := by
  rw [lineLevelOf_eq_bind]
  obtain hv | hx := h
  · rw [lineOf_none hv]; rfl
  · rw [level_ofCode_none hx]; cases lineOf v.toNat <;> rfl

/-- The bytes of a line and a level name these. -/
theorem lineLevelOf_bytes (l : LineNo) (level : Level) : lineLevelOf [BitVec.ofNat 8 l.val, level.code] = some (l, level) := by
  rw [lineLevelOf_eq_bind, toNat_lineByte, lineOf_val, level_ofCode_code]; rfl

/-! ## Claims -/

/-- The request completes after its work on the output line alone. -/
theorem Granted.complete_setOutput {s : State} {p : PortNo} {c : Req} {params : List Byte} (h : Granted s p c params)
    (l : LineNo) (x : OutputLine) (status : Status) (results : List Byte) :
    (s.setOutput l x).complete p status results = completed (s.setOutput l x) p c status results :=
  h.complete_eq (State.port_setOutput s l x p) status results

theorem exec_claimOutput (s : State) : exec .claimOutput s = execClaimOutput s := rfl

theorem exec_driveOutput (s : State) : exec .driveOutput s = execDriveOutput s := rfl

theorem exec_releaseOutput (s : State) : exec .releaseOutput s = execReleaseOutput s := rfl

/-- A granted CLAIM_OUTPUT of line `l`, by the line's claim: FREE and the caller's own are claimed, another port's is not (R117). -/
theorem exec_claimOutput_of_granted {s : State} {p : PortNo} {l : LineNo} {level : Level}
    (h : Granted s p .claimOutput [BitVec.ofNat 8 l.val, level.code]) :
    exec .claimOutput s = .next
      (if (s.output l).claim = none ∨ (s.output l).claim = some p then
        completed (s.setOutput l { s.output l with claim := some p, idleLevel := level }) p .claimOutput .ok
          [BitVec.ofNat 8 l.val, (s.output l).level.code, level.code]
      else completed s p .claimOutput .lineHeld [BitVec.ofNat 8 (((s.output l).claim.map Fin.val).getD 0)]) := by
  rw [exec_claimOutput, execClaimOutput, h.live_serve, lineLevelOf_bytes]
  cases hc : (s.output l).claim with
  | none => simp [hc, h.complete_setOutput, lineByte]
  | some q =>
    by_cases hq : q = p
    · subst hq
      simp [hc, h.complete_setOutput, lineByte]
    · simp [hc, hq, h.complete_eq, portByte]

/-- A granted DRIVE_OUTPUT of line `l` moves the line when the caller claims it (R118). -/
theorem exec_driveOutput_of_granted {s : State} {p : PortNo} {l : LineNo} {level : Level}
    (h : Granted s p .driveOutput [BitVec.ofNat 8 l.val, level.code]) :
    exec .driveOutput s = .next
      (if (s.output l).claim = some p then
        completed (s.setOutput l { s.output l with level }) p .driveOutput .ok [level.code]
      else completed s p .driveOutput .notClaimed []) := by
  simp only [exec_driveOutput, execDriveOutput, h.live_serve, lineLevelOf_bytes, h.complete_setOutput, h.refuse_eq]

/-- Settles O24, by the range of the parameters and then by the claim of the line that they name. -/
theorem outputsClaimedAndDriven : Obligations.OutputsClaimedAndDriven := by
  refine fun s p v x => ⟨fun h => ⟨fun hrange => ?_, ?_⟩, fun h => ⟨fun hrange => ?_, ?_⟩⟩
  · rw [exec_claimOutput, execClaimOutput, h.live_serve, lineLevelOf_none hrange]
    exact congrArg _ (h.refuse_eq _)
  · rintro l level rfl rfl
    exact exec_claimOutput_of_granted h
  · rw [exec_driveOutput, execDriveOutput, h.live_serve, lineLevelOf_none hrange]
    exact congrArg _ (h.refuse_eq _)
  · rintro l level rfl rfl
    exact exec_driveOutput_of_granted h

/-! ## RELEASE_OUTPUT -/

/-- The model's search over the slots finds an output action on the line exactly when a slot of the port holds one (R119). -/
theorem actionNames_iff {s : State} {p : PortNo} {l : LineNo} :
    s.actionNames p l = true ↔ ∃ n, ∃ r ∈ s.held n, r.owner = p ∧ ∃ a ∈ r.action, a.line = l := by
  rw [State.actionNames, List.any_eq_true]
  refine exists_congr fun n => ?_
  rw [and_iff_right (a := n ∈ allSlots) (List.mem_finRange n)]
  cases s.held n with
  | none => simp
  | some r => simp

/-- A granted RELEASE_OUTPUT of line `l`: the claim is checked, then the caller's output actions, and the line goes FREE (R119). -/
theorem exec_releaseOutput_of_granted {s : State} {p : PortNo} {l : LineNo}
    (h : Granted s p .releaseOutput [BitVec.ofNat 8 l.val]) :
    exec .releaseOutput s = .next
      (if (s.output l).claim ≠ some p then completed s p .releaseOutput .notClaimed []
      else if s.actionNames p l then completed s p .releaseOutput .lineBound []
      else completed (s.setOutput l (s.output l).free) p .releaseOutput .ok [(s.output l).idleLevel.code]) := by
  have hline : lineOf (byteAt [BitVec.ofNat 8 l.val] 0) = some l :=
    (congrArg lineOf (toNat_lineByte l)).trans (lineOf_val l)
  simp only [exec_releaseOutput, execReleaseOutput, h.live_serve, hline, h.complete_setOutput, h.refuse_eq]

/-- Settles O25, by the range of the line number, the claim of the line, and the search for an output action on it. -/
theorem releaseOutputEndsClaim : Obligations.ReleaseOutputEndsClaim := by
  refine fun s p v h => ⟨fun hrange => ?_, ?_⟩
  · have hline : lineOf (byteAt [v] 0) = none := lineOf_none hrange
    rw [exec_releaseOutput, execReleaseOutput, h.live_serve, hline]
    exact congrArg _ (h.refuse_eq _)
  · rintro l rfl
    rw [exec_releaseOutput_of_granted h]
    refine ⟨fun hc => ?_, fun hc hbound => ?_, fun hc hbound => ?_⟩
    · rw [if_pos hc]
    · rw [if_neg (not_not.2 hc), if_pos (actionNames_iff.2 hbound)]
    · rw [if_neg (not_not.2 hc), if_neg (mt actionNames_iff.1 hbound)]; rfl

end Sys2Proof.Claims
end

section
/-! SUPPORT. A notice queue and its attention (sections 7.2 to 7.4): what an arrival and an ACK do (O37, O40), the moves that a step can
make with a host port, and that each of them keeps ATTNn at its terms and the queue in its shape. -/

namespace Sys2Proof.Claims

open Sys2Proof.Machine

/-! ## Arrivals -/

theorem isOverflow_iff {e : Stored} : e.isOverflow = true ↔ e.notice.kind = .overflow := beq_iff_eq

theorem overflow_iff {x : HostPort} : x.overflow = true ↔ ∃ e ∈ x.notices, e.notice.kind = .overflow := by
  simp only [HostPort.overflow, List.any_eq_true, isOverflow_iff]

/-- An OVERFLOW notice counts a drop, with the time count of the drop as its ref (R124); any other notice stays as it is. -/
theorem countDrop_eq (now : TimeCount) (e : Stored) :
    e.countDrop now =
      if e.notice.kind = .overflow then
        { e with
          notice := { e.notice with
            ref := some now
            value := some (BitVec.ofNat 32 (min ((e.notice.value.getD 0).toNat + 1) 65535)) } }
      else e := by
  simp only [Stored.countDrop, isOverflow_iff, Config.halfMax]

/-- Settles O37, by the four outcomes of an arrival: the session, OVERFLOW, and the room for ordinary notices decide. -/
theorem arrivalsStoredCountedOrDiscarded : Obligations.ArrivalsStoredCountedOrDiscarded := by
  intro now n x stored overflow
  have hstore (m : Notice) : x.store m = stored m := by simp only [HostPort.store, stored, List.isEmpty_iff]
  rcases x.arrive_cases now n with ⟨hs, h⟩ | ⟨hs, ho, h⟩ | ⟨hs, ho, hl, h⟩ | ⟨hs, ho, hl, h⟩ <;> rw [h]
  · rw [if_pos hs]
  · rw [if_neg (not_not.2 hs), if_pos (overflow_iff.1 ho)]
    rw [List.map_congr_left fun e _ => countDrop_eq now e]
  · have hnone := mt overflow_iff.2 (Bool.eq_false_iff.1 ho)
    rw [if_neg (not_not.2 hs), if_neg hnone, if_pos hl, hstore]
  · have hnone := mt overflow_iff.2 (Bool.eq_false_iff.1 ho)
    rw [if_neg (not_not.2 hs), if_neg hnone, if_neg (Nat.not_lt.2 hl), hstore]
    rfl

/-! ## ACK -/

/-- The two bytes of a seq, the high byte first, spell it (R170). -/
theorem ackSeq_bytes (seq : Half) : ackSeq (BitVec.ofNat 8 (seq.toNat / 256), BitVec.ofNat 8 seq.toNat) = seq := by
  have hbytes (a b : Byte) : ackSeq (a, b) = BitVec.ofNat 16 (256 * a.toNat + b.toNat) := by
    simp [ackSeq, fieldBE, numberBE, List.range_succ]
  rw [hbytes]
  apply BitVec.eq_of_toNat_eq
  simp only [BitVec.toNat_ofNat]
  omega

/-- An ACK of a notice present leaves the notices that are newer (R132). -/
theorem afterAck_of_present {seq : Half} {older newer : List Stored} {e : Stored} (he : e.seq = seq)
    (holder : ∀ o ∈ older, o.seq ≠ seq) : afterAck seq (older ++ e :: newer) = some newer := by
  have hfind : (older ++ e :: newer).findIdx? (fun e => e.seq == seq) = some older.length := by
    rw [List.findIdx?_append, List.findIdx?_eq_none_iff.2 (by simpa using holder)]
    simp [List.findIdx?_cons, he]
  simp [afterAck, hfind]

/-- An ACK of a seq that no notice has is STALE (R132). -/
theorem afterAck_of_absent {seq : Half} {notices : List Stored} (h : ∀ e ∈ notices, e.seq ≠ seq) :
    afterAck seq notices = none := by
  have hfind : notices.findIdx? (fun e => e.seq == seq) = none := List.findIdx?_eq_none_iff.2 (by simpa using h)
  simp only [afterAck, hfind]

/-- An ACK that is not STALE removes one or more of the oldest notices (R132). -/
theorem afterAck_cases (seq : Half) (notices : List Stored) :
    (∃ k, afterAck seq notices = some (notices.drop (k + 1))) ∨ afterAck seq notices = none := by
  unfold afterAck; split
  · exact .inl ⟨_, rfl⟩
  · exact .inr rfl

theorem exec_ack (s : State) (p : PortNo) (seq : Byte × Byte) : exec (.ack p seq) s = execAck p seq s := rfl

/-- A port with an open transaction takes it: the link is at its take point (R155, R156). -/
theorem Opened.takeTransaction_eq {s : State} {p : PortNo} (h : Opened s p) (k : HostPort → HostPort) :
    s.takeTransaction p k = s.setPort p (k (s.port p)) := by
  simp only [State.takeTransaction, h.link]

/-- Settles O40, by whether the seq that the two bytes spell is that of a notice present. -/
theorem ackRemovesThroughSeq : Obligations.AckRemovesThroughSeq := by
  intro s p seq hopen
  simp only [exec_ack, execAck, State.live_of_not_rstn hopen.live, hopen.takeTransaction_eq, ackSeq_bytes]
  refine ⟨fun older e newer hlist he holder => ?_, fun hnone => ?_⟩
  · rw [hlist, afterAck_of_present he holder]; rfl
  · rw [afterAck_of_absent hnone]; rfl

/-! ## The shape of a queue -/

/-- `HostPort.NoticeLaw` by its parts, the places of the list as plain numbers (R130, R135, R139). -/
structure NoticeShape (x : HostPort) : Prop where
  room : x.notices.length ≤ 32
  ordinary : x.overflow = false → x.notices.length ≤ 31
  newest : ∀ i (hi : i < x.notices.length), x.notices[i].isOverflow = true → i + 1 = x.notices.length
  seqs : ∀ i (hi : i < x.notices.length), x.notices[i].seq = x.nextSeq - BitVec.ofNat 16 (x.notices.length - i)
  outside : x.session ≠ .opened → x.notices = []
  counter : x.notices = [] → x.holdoffCounter = 0

theorem noticeShape_iff {x : HostPort} : NoticeShape x ↔ x.NoticeLaw := by
  simp only [HostPort.NoticeLaw, Fin.forall_iff, Fin.getElem_fin]
  constructor
  · rintro ⟨room, ordinary, newest, seqs, outside, counter⟩
    exact ⟨room, ordinary, newest, seqs, outside, counter⟩
  · rintro ⟨room, ordinary, newest, seqs, outside, counter⟩
    exact ⟨room, ordinary, newest, seqs, outside, counter⟩

/-- An empty queue with its holdoff counter at 0 is in shape, whatever its session and next seq. -/
theorem noticeShape_of_empty {x : HostPort} (hlist : x.notices = []) (hcounter : x.holdoffCounter = 0) : NoticeShape x where
  room := by simp [hlist]
  ordinary := by simp [hlist]
  newest := by simp [hlist]
  seqs := by simp [hlist]
  outside _ := hlist
  counter _ := hcounter

theorem not_isOverflow_of_overflow {x : HostPort} (ho : x.overflow = false) {i : Nat} (hi : i < x.notices.length) :
    x.notices[i].isOverflow = false := by
  simpa using List.any_eq_false.1 ho _ (List.getElem_mem hi)

/-- Without OVERFLOW a notice is stored, with the next seq and as the newest; the 32nd notice is an OVERFLOW notice (R126, R127). -/
theorem NoticeShape.store {x : HostPort} (hx : NoticeShape x) (hs : x.session = .opened) (ho : x.overflow = false) {n : Notice}
    (hn : x.notices.length < 31 ∨ n.kind = .overflow) : NoticeShape (x.store n) := by
  have hroom := hx.ordinary ho
  have hlist : (x.store n).notices = x.notices ++ [{ seq := x.nextSeq, notice := n }] := rfl
  have hseq : (x.store n).nextSeq = x.nextSeq + 1 := rfl
  constructor
  · simp only [hlist, List.length_append, List.length_singleton]; omega
  · intro ho'
    obtain hn | hn := hn
    · simp only [hlist, List.length_append, List.length_singleton]; omega
    · have hover : (x.store n).overflow = true := overflow_iff.2 ⟨⟨x.nextSeq, n⟩, by simp [hlist], hn⟩
      exact absurd (hover.symm.trans ho') nofun
  · intro i hi hover
    simp only [hlist, List.length_append, List.length_singleton] at hi hover ⊢
    rcases Nat.lt_succ_iff_lt_or_eq.1 hi with hlt | rfl
    · rw [List.getElem_append_left hlt, not_isOverflow_of_overflow ho hlt] at hover
      exact absurd hover nofun
    · rfl
  · intro i hi
    simp only [hlist, hseq, List.length_append, List.length_singleton] at hi ⊢
    rcases Nat.lt_succ_iff_lt_or_eq.1 hi with hlt | rfl
    · have hback : x.notices.length + 1 - i = (x.notices.length - i) + 1 := by omega
      rw [List.getElem_append_left hlt, hx.seqs i hlt, hback, BitVec.ofNat_add]
      exact (add_sub_add_right_eq_sub ..).symm
    · have hback : x.notices.length + 1 - x.notices.length = 1 := by omega
      rw [List.getElem_concat_length rfl, hback]
      exact (add_sub_cancel_right ..).symm
  · exact fun h => absurd hs h
  · simp [hlist]

@[simp] theorem seq_countDrop (now : TimeCount) (e : Stored) : (e.countDrop now).seq = e.seq := by
  unfold Stored.countDrop; split <;> rfl

@[simp] theorem isOverflow_countDrop (now : TimeCount) (e : Stored) : (e.countDrop now).isOverflow = e.isOverflow := by
  unfold Stored.countDrop; split <;> rfl

/-- A drop changes the OVERFLOW notice in its place (R124, R127). -/
theorem NoticeShape.countDrop {x : HostPort} (hx : NoticeShape x) (now : TimeCount) :
    NoticeShape { x with notices := x.notices.map (Stored.countDrop now) } where
  room := by simpa using hx.room
  ordinary ho := by
    have ho : x.overflow = false := by simpa [HostPort.overflow] using ho
    simpa using hx.ordinary ho
  newest i hi hover := by
    simp only [List.length_map, List.getElem_map, isOverflow_countDrop] at hi hover ⊢
    exact hx.newest i hi hover
  seqs i hi := by
    simp only [List.length_map, List.getElem_map, seq_countDrop] at hi ⊢
    exact hx.seqs i hi
  outside h := by simpa using hx.outside h
  counter h := hx.counter (by simpa using h)

/-- Removals take notices from the oldest end, and OVERFLOW with all the others (R130, R132). -/
theorem NoticeShape.drop {x : HostPort} (hx : NoticeShape x) (k : Nat) :
    NoticeShape { x with notices := x.notices.drop (k + 1), holdoffCounter := 0 } where
  room := by have := hx.room; simp only [List.length_drop]; omega
  ordinary _ := by have := hx.room; simp only [List.length_drop]; omega
  newest i hi hover := by
    simp only [List.length_drop, List.getElem_drop] at hi hover ⊢
    have := hx.newest (k + 1 + i) (by omega) hover
    omega
  seqs i hi := by
    simp only [List.length_drop, List.getElem_drop] at hi ⊢
    rw [hx.seqs (k + 1 + i) (by omega), Nat.sub_sub]
  outside h := by simp [hx.outside h]
  counter _ := rfl

/-- The shape says nothing of ATTNn. -/
theorem NoticeShape.drive {x : HostPort} (hx : NoticeShape x) : NoticeShape x.drive :=
  ⟨hx.room, hx.ordinary, hx.newest, hx.seqs, hx.outside, hx.counter⟩

/-! ## The moves of a port -/

/-- What steps can do with a host port, its teardown and device reset aside, in the events of R137: they leave the notice queue and
attention as they are, or let a notice arrive, an ACK remove the oldest notices, a tick event be counted, SET_ATTENTION set its two
values, or OPEN begin a session. -/
inductive PortMove : HostPort → HostPort → Prop
  | keep {x : HostPort} (prstn chipSelect link sessionNumber request teardownPending resetMark snapshot) :
      PortMove x { x with prstn, chipSelect, link, sessionNumber, request, teardownPending, resetMark, snapshot }
  | arrive {x : HostPort} (now n) : PortMove x (x.arrive now n)
  | ack {x : HostPort} (k : Nat) :
      PortMove x (HostPort.drive { x with notices := x.notices.drop (k + 1), holdoffCounter := 0 })
  | countTick {x : HostPort} : PortMove x x.countTick
  | setAttention {x : HostPort} (threshold holdoff) : PortMove x (HostPort.drive { x with threshold, holdoff })
  | openSession {x : HostPort} (sessionNumber) (h : x.session = .detached) :
      PortMove x (HostPort.drive
        { x with session := .opened, sessionNumber, nextSeq := 0, threshold := 1, holdoff := 0 })
  | trans {x y z : HostPort} (hxy : PortMove x y) (hyz : PortMove y z) : PortMove x z

theorem PortMove.refl (x : HostPort) : PortMove x x := .keep ..

/-- A port whose queue holds a notice counts a tick; any other stays as it is (R135). -/
theorem countTick_cases (x : HostPort) :
    (x.notices = [] ∧ x.countTick = x) ∨
    (x.notices ≠ [] ∧
      x.countTick = HostPort.drive { x with holdoffCounter := satHalf (x.holdoffCounter.toNat + 1) }) := by
  unfold HostPort.countTick; split
  · next h => exact .inl ⟨List.isEmpty_iff.1 h, rfl⟩
  · next h => exact .inr ⟨mt List.isEmpty_iff.2 h, rfl⟩

/-- A drop into OVERFLOW changes no term of ATTNn (R137). -/
theorem attention_countDrop (x : HostPort) (now : TimeCount) :
    HostPort.attention { x with notices := x.notices.map (Stored.countDrop now) } = x.attention := by
  simp [HostPort.attention, HostPort.holdoffExpired]

/-- Every move that changes a term of ATTNn sets the line anew (R137). -/
theorem PortMove.attn_eq {x y : HostPort} (hm : PortMove x y) (hx : x.attn = x.attention) : y.attn = y.attention := by
  induction hm with
  | keep => exact hx
  | @arrive x now n =>
    rcases x.arrive_cases now n with ⟨-, h⟩ | ⟨-, -, h⟩ | ⟨-, -, -, h⟩ | ⟨-, -, -, h⟩ <;> rw [h]
    · exact hx
    · exact hx.trans (attention_countDrop x now).symm
    · rfl
    · rfl
  | ack => rfl
  | @countTick x =>
    obtain ⟨-, h⟩ | ⟨-, h⟩ := countTick_cases x <;> rw [h]
    · exact hx
    · rfl
  | setAttention => rfl
  | openSession => rfl
  | trans _ _ ihxy ihyz => exact ihyz (ihxy hx)

/-- Every move keeps the shape of the queue (R130). -/
theorem PortMove.noticeShape {x y : HostPort} (hm : PortMove x y) (hx : NoticeShape x) : NoticeShape y := by
  induction hm with
  | keep => exact ⟨hx.room, hx.ordinary, hx.newest, hx.seqs, hx.outside, hx.counter⟩
  | @arrive x now n =>
    rcases x.arrive_cases now n with ⟨-, h⟩ | ⟨-, -, h⟩ | ⟨hs, ho, hl, h⟩ | ⟨hs, ho, -, h⟩ <;> rw [h]
    · exact hx
    · exact hx.countDrop now
    · exact hx.store hs ho (.inl hl)
    · exact hx.store hs ho (.inr rfl)
  | ack k => exact (hx.drop k).drive
  | @countTick x =>
    obtain ⟨-, h⟩ | ⟨hne, h⟩ := countTick_cases x <;> rw [h]
    · exact hx
    · exact ⟨hx.room, hx.ordinary, hx.newest, hx.seqs, hx.outside, fun he => absurd he hne⟩
  | setAttention => exact ⟨hx.room, hx.ordinary, hx.newest, hx.seqs, hx.outside, hx.counter⟩
  | openSession _ h =>
    have hlist := hx.outside (by simp [h])
    exact noticeShape_of_empty hlist (hx.counter hlist)
  | trans _ _ ihxy ihyz => exact ihyz (ihxy hx)

/-- No move takes a port out of CLOSING: only the end of its teardown does (R164). -/
theorem PortMove.closing {x y : HostPort} (hm : PortMove x y) (hx : x.session = .closing) : y.session = .closing := by
  induction hm with
  | keep => exact hx
  | @arrive x now n => rw [HostPort.arrive_discarded now n (by simp [hx])]; exact hx
  | ack => exact hx
  | @countTick x => obtain ⟨-, h⟩ | ⟨-, h⟩ := countTick_cases x <;> rw [h] <;> exact hx
  | setAttention => exact hx
  | openSession _ h => exact absurd (h.symm.trans hx) nofun
  | trans _ _ ihxy ihyz => exact ihyz (ihxy hx)

end Sys2Proof.Claims
end

section
/-! SUPPORT. What the steps do with the notice queues, operation by operation: each moves the ports, begins a teardown, ends the one that
the engine carries out, or resets the part. -/

namespace Sys2Proof.Claims

open Sys2Proof.Machine

/-! ## Runs of moves -/

/-- The port whose teardown the engine carries out (R164). -/
def teardownPort : Engine → Option PortNo
  | .teardown p _ _ _ _ => some p
  | .free | .granted _ | .inserting _ | .waiting _ _ _ => none

theorem closingLaw_iff {s : State} : s.ClosingLaw ↔ ∀ p, teardownPort s.engine = some p → (s.port p).session = .closing := by
  unfold State.ClosingLaw; cases s.engine <;> simp [teardownPort]

/-- What the operations of a step do with the notice queues and with teardowns: every port makes a move, while the engine goes on with
its teardown or has none; a teardown begins; the port of the engine's teardown becomes DETACHED; the part is reset. -/
inductive NoticeRun : State → State → Prop
  | ports {s t : State} (hm : ∀ p, PortMove (s.port p) (t.port p))
      (he : teardownPort t.engine = none ∨ teardownPort t.engine = teardownPort s.engine) : NoticeRun s t
  | beginTeardown {s : State} (p close) : NoticeRun s (s.beginTeardown p close)
  | detach {s : State} {p : PortNo} (h : teardownPort s.engine = some p) :
      NoticeRun s { s.setPort p (HostPort.drive { s.port p with session := .detached }) with engine := .free }
  | deviceReset {s : State} (rstn straps quota) : NoticeRun s (s.deviceReset rstn straps quota)
  | trans {s t u : State} (hst : NoticeRun s t) (htu : NoticeRun t u) : NoticeRun s u

theorem NoticeRun.refl (s : State) : NoticeRun s s := .ports (fun _ => .refl _) (.inr rfl)

/-! ## The laws along a run -/

theorem port_deviceReset (s : State) (rstn : Bool) (straps : BitVec 2) (quota : PortNo → Nat) (p : PortNo) :
    (s.deviceReset rstn straps quota).port p =
      { HostPort.reset with
        prstn := (s.port p).prstn, chipSelect := (s.port p).chipSelect, link := resetLink rstn (s.port p).prstn } := by
  simp [State.deviceReset, State.port]

theorem attentionLaw_setPort {s : State} (hs : s.AttentionLaw) (p : PortNo) {x : HostPort} (hx : x.attn = x.attention) :
    (s.setPort p x).AttentionLaw := fun q => by
  rw [State.port_setPort]; split
  · exact hx
  · exact hs q

/-- A run keeps ATTNn of every port at its terms (R137). -/
theorem NoticeRun.attentionLaw {s t : State} (h : NoticeRun s t) (hs : s.AttentionLaw) : t.AttentionLaw := by
  induction h with
  | ports hm => exact fun p => (hm p).attn_eq (hs p)
  | beginTeardown p => exact attentionLaw_setPort hs p rfl
  | detach => exact attentionLaw_setPort hs _ rfl
  | deviceReset => intro p; rw [port_deviceReset]; rfl
  | trans _ _ ihst ihtu => exact ihtu (ihst hs)

/-- A run keeps the shape of the notice queues: a teardown empties the queue as it begins, so that its port has an empty one when it
becomes DETACHED (R130, R139). -/
theorem NoticeRun.noticeLaw {s t : State} (h : NoticeRun s t) (hs : s.NoticeLaw) : t.NoticeLaw := by
  simp only [State.NoticeLaw, closingLaw_iff, ← noticeShape_iff] at hs ⊢
  induction h with
  | ports hm he =>
    obtain ⟨hshape, hclosing⟩ := hs
    refine ⟨fun p => (hm p).noticeShape (hshape p), fun p hp => ?_⟩
    obtain hnone | hsame := he
    · exact absurd (hnone.symm.trans hp) nofun
    · exact (hm p).closing (hclosing p (hsame.symm.trans hp))
  | @beginTeardown s p close =>
    have hport (q : PortNo) : (s.beginTeardown p close).port q =
        if q = p then HostPort.drive { s.port p with session := .closing, notices := [], holdoffCounter := 0 }
        else s.port q := s.port_setPort p q _
    refine ⟨fun q => ?_, fun q hq => ?_⟩
    · rw [hport]; split
      · exact noticeShape_of_empty rfl rfl
      · exact hs.1 q
    · rw [hport, if_pos (Option.some.inj hq).symm]; rfl
  | @detach s p h =>
    obtain ⟨hshape, hclosing⟩ := hs
    have hlist : (s.port p).notices = [] := (hshape p).outside (by simp [hclosing p h])
    refine ⟨fun q => ?_, nofun⟩
    rw [State.port_with_engine, State.port_setPort]; split
    · exact noticeShape_of_empty hlist ((hshape p).counter hlist)
    · exact hshape q
  | deviceReset =>
    refine ⟨fun p => ?_, nofun⟩
    rw [port_deviceReset]; exact noticeShape_of_empty rfl rfl
  | trans _ _ ihst ihtu => exact ihtu (ihst hs)

/-! ## Updates -/

section
variable {s t : State} (h : NoticeRun s t)
include h

/-- An update of other parts of the state continues a run. -/
theorem NoticeRun.frame {u : State} (hp : u.ports = t.ports) (he : u.engine = t.engine) : NoticeRun s u := by
  refine h.trans (.ports (fun p => ?_) (.inr (congrArg _ he)))
  rw [show u.port p = t.port p from congrArg (·[p]) hp]
  exact .refl _

theorem NoticeRun.setHeld (n : SlotNo) (r : Reservation) : NoticeRun s (t.setHeld n r) := h.frame rfl rfl

theorem NoticeRun.with_inputs (inputs : Vector InputLine 8) : NoticeRun s { t with inputs } := h.frame rfl rfl

/-- The engine may end or drop what it has in hand, and may go on with its teardown. -/
theorem NoticeRun.setEngine {e : Engine} (he : teardownPort e = none ∨ teardownPort e = teardownPort t.engine) :
    NoticeRun s { t with engine := e } :=
  h.trans (.ports (fun _ => .refl _) he)

theorem NoticeRun.setPort {p : PortNo} {x : HostPort} (hm : PortMove (t.port p) x) : NoticeRun s (t.setPort p x) := by
  refine h.trans (.ports (fun q => ?_) (.inr rfl))
  rw [State.port_setPort]; split
  · next hq => exact hq ▸ hm
  · exact .refl _

theorem NoticeRun.foldl {α : Type} {f : State → α → State} (hf : ∀ t a, NoticeRun t (f t a)) (as : List α) :
    NoticeRun s (as.foldl f t) := by
  induction as generalizing t with
  | nil => exact h
  | cons a as ih => exact ih (h.trans (hf t a))

/-! ## Notices and requests -/

theorem NoticeRun.deliver (n : Notice) (p : PortNo) : NoticeRun s (t.deliver n p) := h.setPort (.arrive ..)

theorem NoticeRun.deliverWatchers (n : Notice) (w : Vector Bool 4) : NoticeRun s (t.deliverWatchers n w) :=
  h.foldl (fun t p => (refl t).deliver _ p) _

theorem NoticeRun.deliverAll (n : Notice) (r : Reservation) : NoticeRun s (t.deliverAll n r) :=
  (h.deliver n _).deliverWatchers n _

theorem NoticeRun.complete (p : PortNo) (status : Status) (results : List Byte) : NoticeRun s (t.complete p status results) := by
  obtain ⟨request, resetMark, teardownPending, ht⟩ := t.complete_frame p status results
  rw [ht]
  exact (h.setPort (.keep ..)).setEngine (.inl rfl)

theorem NoticeRun.refuse (p : PortNo) (status : Status) : NoticeRun s (t.refuse p status) := h.complete ..

theorem NoticeRun.offer {p : PortNo} {n : Option SlotNo} {op : SlotOp} {k : State → State} (hk : NoticeRun s (k t)) :
    NoticeRun s (t.offer p n op k) := by
  unfold State.offer; split
  · exact h.setEngine (.inl rfl)
  · exact hk

/-! ## Binding lists and the edge FIFO -/

theorem NoticeRun.unbindMode (n : SlotNo) (m : Mode) : NoticeRun s (t.unbindMode n m) := by
  obtain ⟨inputs, monitor, ht⟩ := t.unbindMode_frame n m
  rw [ht]; exact h.frame rfl rfl

theorem NoticeRun.rebind (n : SlotNo) (old new : Mode) : NoticeRun s (t.rebind n old new) := by
  obtain ⟨inputs, monitor, ht⟩ := t.rebind_frame n old new
  rw [ht]; exact h.frame rfl rfl

theorem NoticeRun.recognize (l : LineNo) : NoticeRun s (t.recognize l) := by
  obtain ⟨x, fifo, ht, -⟩ := t.recognize_frame l
  rw [ht]; exact h.frame rfl rfl

theorem NoticeRun.recognizeAll (ls : List LineNo) : NoticeRun s (t.recognizeAll ls) := by
  obtain ⟨inputs, fifo, ht⟩ := t.recognizeAll_frame ls
  rw [ht]; exact h.frame rfl rfl

theorem NoticeRun.leaveIfApplied (early : Nat) : NoticeRun s (t.leaveIfApplied early) := by
  obtain ⟨inputs, fifo, monitor, ht⟩ := t.leaveIfApplied_frame early
  rw [ht]; exact h.frame rfl rfl

theorem NoticeRun.applicationDone : NoticeRun s t.applicationDone := by
  obtain ⟨monitor, ht⟩ := t.applicationDone_frame
  rw [ht]; exact h.frame rfl rfl

/-! ## The Deadline Queue -/

theorem NoticeRun.remove (n : SlotNo) (r : Reservation) (run : Run) : NoticeRun s (t.remove n r run) := h.frame rfl rfl

theorem NoticeRun.endFiring : NoticeRun s t.endFiring := h.frame rfl rfl

theorem NoticeRun.place (i : Insertion) : NoticeRun s (t.place i) := by
  unfold State.place; dsimp only; split
  · exact h.frame rfl rfl
  · exact h.frame rfl rfl

theorem NoticeRun.finishInsert (i : Insertion) : NoticeRun s (t.finishInsert i) := by
  unfold State.finishInsert; dsimp only; split
  · exact (h.place i).complete ..
  · exact (h.place i).applicationDone
  · exact (h.place i).endFiring

theorem NoticeRun.insert (i : Insertion) : NoticeRun s (t.insert i) := by
  obtain ⟨-, ht⟩ | ⟨-, ht⟩ := t.insert_cases i <;> rw [ht]
  · exact h.finishInsert i
  · exact h.frame rfl rfl

/-! ## Release and teardown -/

theorem NoticeRun.release (n : SlotNo) (r : Reservation) : NoticeRun s (t.release n r) := by
  obtain ⟨queue, ht⟩ := t.removeArmed_frame n r
  have harmed : NoticeRun s (t.removeArmed n r) := by rw [ht]; exact h.frame rfl rfl
  exact ((harmed.unbindMode n r.mode).deliverWatchers _ _).frame rfl rfl

theorem NoticeRun.teardownOp (p : PortNo) (n : SlotNo) : NoticeRun s (t.teardownOp p n).1 := by
  unfold State.teardownOp; split
  · split
    · exact h.frame rfl rfl
    · exact h.release ..
  · exact h

/-- The last step of the teardown in hand: its port becomes DETACHED, and then a CLOSE completes (R164). -/
theorem NoticeRun.endTeardown {p : PortNo} (ht : teardownPort t.engine = some p) (close : Bool) (released lines : Nat) :
    NoticeRun s (t.endTeardown p close released lines) := by
  cases close with
  | true => exact (h.trans (.detach ht)).complete p .ok _
  | false => exact h.trans (.detach ht)

end

/-- A slot operation of a teardown is no concern of the engine's. -/
theorem engine_teardownOp (s : State) (p : PortNo) (n : SlotNo) : (s.teardownOp p n).1.engine = s.engine := by
  unfold State.teardownOp; split
  · next r _ =>
    split
    · rfl
    · obtain ⟨_, _, _, _, _, _, hr⟩ := s.release_frame n r
      rw [hr]
  · rfl

theorem noticeRun_teardownStep (s : State) : NoticeRun s s.teardownStep := by
  by_cases he : ∃ p close released lines on, s.engine = .teardown p close released lines on
  · obtain ⟨p, close, released, lines, on, he⟩ := he
    have hp : teardownPort s.engine = some p := by rw [he]; rfl
    rcases State.teardownStep_cases he with ⟨-, h⟩ | ⟨-, ⟨n, -, ⟨w, -, h⟩ | ⟨-, h⟩⟩ | ⟨-, ⟨l, -, h⟩ | ⟨-, h⟩⟩⟩ <;> rw [h]
    · exact .ports (fun _ => .refl _) (.inr hp.symm)
    · exact .ports (fun _ => .refl _) (.inr hp.symm)
    · exact ((NoticeRun.refl s).teardownOp p n).setEngine (.inr (by rw [engine_teardownOp, hp]; rfl))
    · exact .ports (fun _ => .refl _) (.inr hp.symm)
    · exact (NoticeRun.refl s).endTeardown hp ..
  · rw [State.teardownStep_of_none fun p close released lines on h => he ⟨p, close, released, lines, on, h⟩]
    exact .refl s

theorem NoticeRun.runTeardown {s t : State} (h : NoticeRun s t) (ops : Nat) : NoticeRun s (State.runTeardown ops t) := by
  induction ops generalizing t with
  | zero => exact h
  | succ ops ih =>
    have hnext := h.trans (noticeRun_teardownStep t)
    obtain ⟨-, ht⟩ | ⟨-, ht⟩ := State.runTeardown_succ ops t <;> rw [ht]
    · exact ih hnext
    · exact hnext

end Sys2Proof.Claims
end

section
/-! SUPPORT. The rows of the table and the notice queues: the slot operations, the applications of a record, the firings and the ticks run
as `NoticeRun` says. -/

namespace Sys2Proof.Claims

open Sys2Proof.Machine

variable {s t : State} (h : NoticeRun s t)
include h

/-! ## Slot operations -/

theorem NoticeRun.reserveOp (p : PortNo) : NoticeRun s (t.reserveOp p) := by
  unfold State.reserveOp; split
  · refine NoticeRun.complete ?_ ..
    exact h.frame rfl rfl
  · exact h.refuse ..

theorem NoticeRun.releaseOp (p : PortNo) (n : SlotNo) : NoticeRun s (t.releaseOp p n) := by
  unfold State.releaseOp; split
  · exact (h.release ..).complete ..
  · exact h.refuse ..

theorem NoticeRun.setShareOp (p : PortNo) (n : SlotNo) (share : Share) : NoticeRun s (t.setShareOp p n share) := by
  unfold State.setShareOp; split
  · refine NoticeRun.complete ?_ ..
    split
    · exact h
    · split
      · exact h.frame rfl rfl
      · exact (h.setHeld ..).deliverWatchers ..
  · exact h.refuse ..

theorem NoticeRun.watchOp (p : PortNo) (n : SlotNo) : NoticeRun s (t.watchOp p n) := by
  unfold State.watchOp; split
  · exact (h.setHeld ..).complete ..
  · exact h.refuse ..

theorem NoticeRun.unwatchOp (p : PortNo) (n : SlotNo) : NoticeRun s (t.unwatchOp p n) := by
  unfold State.unwatchOp; split
  · exact (h.setHeld ..).complete ..
  · exact h.refuse ..

theorem NoticeRun.queryOp (p : PortNo) (n : SlotNo) : NoticeRun s (t.queryOp p n) := by
  unfold State.queryOp; split
  · exact h.complete ..
  · exact h.refuse ..

theorem NoticeRun.configureOp (p : PortNo) (n : SlotNo) (mode : Mode) (tag : Word) (action : Option OutputAction) :
    NoticeRun s (t.configureOp p n mode tag action) := by
  unfold State.configureOp; split
  · exact h.refuse ..
  · split_ifs
    · exact h.refuse ..
    · exact h.refuse ..
    · exact h.refuse ..
    · exact ((h.rebind ..).setHeld ..).complete ..

theorem NoticeRun.raiseGeneration (n : SlotNo) (r : Reservation) : NoticeRun s (t.raiseGeneration n r) := h.frame rfl rfl

theorem NoticeRun.armAt (p : PortNo) (n : SlotNo) (r : Reservation) (deadline : TimeCount) :
    NoticeRun s (t.armAt p n r deadline) :=
  ((h.raiseGeneration n r).setEngine (.inl rfl)).insert _

theorem NoticeRun.armIn (p : PortNo) (n : SlotNo) (r : Reservation) (run : Run) : NoticeRun s (t.armIn p n r run) :=
  ((h.raiseGeneration ..).setHeld ..).complete ..

theorem NoticeRun.armTimed (p : PortNo) (n : SlotNo) (r : Reservation) (deadline : TimeCount) (refuse : Bool) :
    NoticeRun s (t.armTimed p n r deadline refuse) := by
  unfold State.armTimed; split
  · exact (h.raiseGeneration ..).complete ..
  · exact h.armAt ..

theorem NoticeRun.armOp (p : PortNo) (n : SlotNo) (form : ArmForm) : NoticeRun s (t.armOp p n form) := by
  unfold State.armOp; split
  · exact h.refuse ..
  · split_ifs
    · exact h.refuse ..
    · exact h.refuse ..
    · cases form with
      | absolute => exact h.armTimed ..
      | relative =>
        dsimp only; split
        · exact h.refuse ..
        · exact h.armTimed ..
      | duration =>
        dsimp only; split
        · split_ifs
          · exact h.refuse ..
          · exact h.armAt ..
          · exact h.armIn ..
        · exact h.refuse ..
      | none => exact h.armIn ..

theorem NoticeRun.disarmOp (p : PortNo) (n : SlotNo) : NoticeRun s (t.disarmOp p n) := by
  unfold State.disarmOp; split
  · exact h.refuse ..
  · dsimp only; split
    · exact h.complete ..
    · exact ((h.remove ..).deliverWatchers ..).complete ..

theorem NoticeRun.takeOp (p : PortNo) (op : SlotOp) : NoticeRun s (t.takeOp p op) := by
  cases op with
  | reserve => exact h.reserveOp p
  | release n => exact h.releaseOp p n
  | setShare n share => exact h.setShareOp p n share
  | watch n => exact h.watchOp p n
  | unwatch n => exact h.unwatchOp p n
  | query n => exact h.queryOp p n
  | configure n mode tag action => exact h.configureOp p n mode tag action
  | arm n form => exact h.armOp p n form
  | disarm n => exact h.disarmOp p n

/-! ## Requests -/

theorem NoticeRun.ownerRequest {p : PortNo} {v : Nat} {op : SlotNo → SlotOp} {k : SlotNo → State → State}
    (hk : ∀ n, NoticeRun s (k n t)) : NoticeRun s (t.ownerRequest p v op k) := by
  unfold State.ownerRequest; split
  · exact h.refuse ..
  · split
    · exact h.offer (hk _)
    · exact h.refuse ..

theorem NoticeRun.withAuthority {α : Type} {p : PortNo} {params : Option α} {k : α → State → State}
    (hk : ∀ a, NoticeRun s (k a t)) : NoticeRun s (t.withAuthority p params k) := by
  unfold State.withAuthority; split
  · exact h.refuse ..
  · split
    · exact hk _
    · exact h.refuse ..

theorem NoticeRun.serve {c : Req} {k : PortNo → List Byte → State → State} (hk : ∀ p params, NoticeRun s (k p params t)) :
    NoticeRun s (t.serve c k) := by
  rcases t.serve_cases c k with ht | ⟨p, f, -, -, -, ⟨-, ht⟩ | ⟨-, -, -, ht⟩ | ⟨-, -, ht⟩⟩ <;> rw [ht]
  · exact h
  · exact h.refuse ..
  · exact h.refuse ..
  · exact hk ..

theorem NoticeRun.resumeEngine (pause : Option Nat) : NoticeRun s (t.resumeEngine pause) := by
  unfold State.resumeEngine; split
  · exact h.offer (h.takeOp ..)
  · exact h.runTeardown _
  · exact h

theorem NoticeRun.takeTransaction {p : PortNo} {k : HostPort → HostPort} (hk : ∀ x, PortMove x (k x)) :
    NoticeRun s (t.takeTransaction p k) := by
  unfold State.takeTransaction; split
  · exact h.setPort (hk _)
  · exact h

/-! ## The application of a record to a slot -/

theorem NoticeRun.applyGated (rec : EdgeRecord) (n : SlotNo) (r : Reservation) (active : Level) :
    NoticeRun s (t.applyGated rec n r active) := by
  unfold State.applyGated; split
  · exact h.insert _
  · exact (h.remove ..).applicationDone
  · exact h.applicationDone

theorem NoticeRun.startTriggered (rec : EdgeRecord) (n : SlotNo) (r : Reservation) (delay : Word) :
    NoticeRun s (t.startTriggered rec n r delay) :=
  (h.remove ..).insert _

theorem NoticeRun.applyTriggered (rec : EdgeRecord) (n : SlotNo) (r : Reservation) (edge : TriggerEdge) (delay : Word)
    (restart : Bool) : NoticeRun s (t.applyTriggered rec n r edge delay restart) := by
  unfold State.applyTriggered; split
  · split
    · exact h.startTriggered ..
    · exact h.startTriggered ..
    · exact h.applicationDone
  · exact h.applicationDone

theorem NoticeRun.endWindow (n : SlotNo) (r : Reservation) (rewait again : Bool) :
    NoticeRun s (t.endWindow n r rewait again) := by
  unfold State.endWindow; split
  · exact h
  · exact h.remove ..

theorem NoticeRun.reportWindow (rec : EdgeRecord) (n : SlotNo) (r : Reservation) (kind : NoticeKind) (wanted : Bool)
    (start : TimeCount) (rewait : Bool) : NoticeRun s (t.reportWindow rec n r kind wanted start rewait) := by
  unfold State.reportWindow; split
  · exact h.deliverAll ..
  · exact h

theorem NoticeRun.closeWindow (rec : EdgeRecord) (n : SlotNo) (r : Reservation) (kind : NoticeKind) (wanted : Bool)
    (start : TimeCount) (rewait reopen : Bool) (limit : Word) :
    NoticeRun s (t.closeWindow rec n r kind wanted start rewait reopen limit) := by
  unfold State.closeWindow; dsimp only; split
  · exact ((h.endWindow ..).reportWindow ..).insert _
  · exact ((h.endWindow ..).reportWindow ..).applicationDone

theorem NoticeRun.applyWindow (rec : EdgeRecord) (n : SlotNo) (r : Reservation) (startEdge endEdge : Direction) (limit : Word)
    (report : ReportSet) (rewait : Bool) :
    NoticeRun s (t.applyWindow rec n r startEdge endEdge limit report rewait) := by
  unfold State.applyWindow; dsimp only; split_ifs
  · exact h.insert _
  · split
    · exact h.closeWindow ..
    · exact h.closeWindow ..
    · exact h.applicationDone
  · exact h.applicationDone

theorem NoticeRun.applyRecord (rec : EdgeRecord) (n : SlotNo) : NoticeRun s (t.applyRecord rec n) := by
  unfold State.applyRecord; split
  · exact h.applicationDone
  · split
    · exact h.applyGated ..
    · exact h.applyTriggered ..
    · exact h.applyWindow ..
    · exact h.applicationDone

theorem NoticeRun.offerApplication : NoticeRun s t.offerApplication := by
  unfold State.offerApplication; split
  · split
    · exact h
    · exact h.frame rfl rfl
    · exact h.applyRecord ..
  · exact h

theorem NoticeRun.goOn (early : Nat) : NoticeRun s (t.goOn early) := h.offerApplication.leaveIfApplied early

/-- The report of lost edges sends a notice for each bound slot (R110). -/
theorem NoticeRun.reportLost (rec : EdgeRecord) : NoticeRun s (t.reportLost rec) := by
  unfold State.reportLost; dsimp only; split
  · exact h
  · refine NoticeRun.frame (h.foldl (fun t n => ?_) _) rfl rfl
    split
    · exact (NoticeRun.refl t).deliver ..
    · exact .refl t

/-! ## Firings -/

theorem NoticeRun.deliverCopies (ports : BitVec 4) : NoticeRun s (t.deliverCopies ports) := by
  unfold State.deliverCopies; split
  · split
    · refine NoticeRun.foldl ?_ (fun t q => (NoticeRun.refl t).deliver _ q) _
      exact h.frame rfl rfl
    · exact h
  · exact h

theorem NoticeRun.applyAction : NoticeRun s t.applyAction := by
  unfold State.applyAction; split
  · split
    · split
      · exact h.frame rfl rfl
      · exact h
    · exact h
  · exact h

theorem NoticeRun.carryFiring (upTo : FiringStage) : NoticeRun s (t.carryFiring upTo) := by
  have hall : NoticeRun s t.notifyAndAct := (h.deliverCopies _).applyAction
  cases upTo with
  | copies ports =>
    unfold State.carryFiring; dsimp only; split
    · exact hall
    · exact h.deliverCopies ports
  | action => exact hall

theorem NoticeRun.settle : NoticeRun s t.settle := by
  unfold State.settle; split
  · split
    · dsimp only; split
      · exact (h.setHeld ..).insert _
      · exact (h.setHeld ..).endFiring
    · exact h.endFiring
  · exact h

/-! ## Ticks -/

theorem NoticeRun.sampleInputs (pins : BitVec 8) : NoticeRun s (t.sampleInputs pins) :=
  (h.recognizeAll allLines).with_inputs _

theorem NoticeRun.endDivision : NoticeRun s t.endDivision := h.frame rfl rfl

theorem NoticeRun.endSlew (r : Slew) : NoticeRun s (t.endSlew r) := by
  have hend : NoticeRun s { t with slew := none } := h.frame rfl rfl
  exact hend.deliver ..

/-- Every port counts the tick at once (R86, R135). -/
theorem NoticeRun.countHoldoffs : NoticeRun s t.countHoldoffs := by
  refine h.trans (.ports (fun p => ?_) (.inr rfl))
  have hport : t.countHoldoffs.port p = (t.port p).countTick := by simp [State.countHoldoffs, State.port]
  rw [hport]; exact .countTick

theorem NoticeRun.advance (doneFirst : Bool) : NoticeRun s (t.advance doneFirst) := by
  unfold State.advance; split
  · have htime (time : TimeCount) : NoticeRun s { t with time } := h.frame rfl rfl
    exact (htime _).countHoldoffs
  · have hslew (time : TimeCount) (r : Slew) : NoticeRun s { t with time, slew := some r } := h.frame rfl rfl
    dsimp only; split_ifs
    · exact ((hslew ..).endSlew _).countHoldoffs
    · exact (hslew ..).countHoldoffs.endSlew _
    · exact (hslew ..).countHoldoffs

theorem NoticeRun.takeTick (early : Nat) (doneFirst : Bool) : NoticeRun s (t.takeTick early doneFirst) :=
  (h.recognizeAll _).endDivision.advance doneFirst

theorem NoticeRun.tick (pins : BitVec 8) (early : Nat) (doneFirst : Bool) : NoticeRun s (t.tick pins early doneFirst) := by
  unfold State.tick; split_ifs
  · exact h.takeTick ..
  · exact (h.sampleInputs pins).takeTick ..
  · exact h

theorem NoticeRun.refclkEdge (pins : BitVec 8) (tickLater : Bool) : NoticeRun s (t.refclkEdge pins tickLater) := by
  have hsampled := h.sampleInputs pins
  unfold State.refclkEdge
  generalize t.sampleInputs pins = u at hsampled ⊢
  split_ifs
  · exact hsampled.frame rfl rfl
  · exact hsampled.takeTick ..
  · exact hsampled.frame rfl rfl

end Sys2Proof.Claims
end

section
/-! SUPPORT. That every command runs as `NoticeRun` says, command by command, and with it O48 and O49. -/

namespace Sys2Proof.Claims

open Sys2Proof.Machine

/-! ## Outcomes -/

/-- This outcome of a command that met `s` is a run from `s`. -/
def NoticeOutcome (s : State) (o : Host.Outcome State Fault Refusal) : Prop := ∀ s', o = .next s' → NoticeRun s s'

theorem noticeOutcome_next {s t : State} (h : NoticeRun s t) : NoticeOutcome s (.next t) := by
  rintro s' ⟨⟩; exact h

/-- While RSTn is asserted a command of the living part has no effect (R168). -/
theorem noticeOutcome_live {s : State} {f : State → State} (h : NoticeRun s (f s)) : NoticeOutcome s (s.live f) := by
  unfold State.live; split
  · exact noticeOutcome_next (.refl s)
  · exact noticeOutcome_next h

/-- The row of a request runs as the request's own work does. -/
theorem noticeOutcome_serve {s : State} {c : Req} {k : PortNo → List Byte → State → State}
    (hk : ∀ p params, NoticeRun s (k p params s)) : NoticeOutcome s (s.live fun s => s.serve c k) :=
  noticeOutcome_live ((NoticeRun.refl s).serve hk)

/-- A link transaction runs as what its port does at the take point. -/
theorem noticeOutcome_transaction {s : State} {p : PortNo} {k : HostPort → HostPort} (hk : ∀ x, PortMove x (k x)) :
    NoticeOutcome s (s.live fun s => s.takeTransaction p k) :=
  noticeOutcome_live ((NoticeRun.refl s).takeTransaction hk)

variable (s : State)

/-! ## Sessions and slots -/

theorem execOpenSession_noticeOutcome : NoticeOutcome s (execOpenSession s) :=
  noticeOutcome_serve fun p _ => by
    have hs := NoticeRun.refl s
    dsimp only; split
    · next h => exact (hs.setPort (.openSession _ h)).complete ..
    · exact hs.complete ..
    · exact hs.complete ..

theorem execCloseSession_noticeOutcome (pause : Option Nat) : NoticeOutcome s (execCloseSession pause s) :=
  noticeOutcome_serve fun p _ => (NoticeRun.beginTeardown p true).runTeardown _

theorem execReserve_noticeOutcome : NoticeOutcome s (execReserve s) :=
  noticeOutcome_serve fun p _ => by
    have hs := NoticeRun.refl s
    split
    · exact hs.offer (hs.reserveOp p)
    · exact hs.refuse ..

theorem execRelease_noticeOutcome : NoticeOutcome s (execRelease s) :=
  noticeOutcome_serve fun p _ => (NoticeRun.refl s).ownerRequest ((NoticeRun.refl s).releaseOp p)

theorem execSetShare_noticeOutcome : NoticeOutcome s (execSetShare s) :=
  noticeOutcome_serve fun p params => by
    have hs := NoticeRun.refl s
    split
    · exact hs.refuse ..
    · exact hs.ownerRequest fun n => hs.setShareOp p n _

theorem execWatch_noticeOutcome : NoticeOutcome s (execWatch s) :=
  noticeOutcome_serve fun p params => by
    have hs := NoticeRun.refl s
    split
    · exact hs.refuse ..
    · split_ifs
      · exact hs.refuse ..
      · exact hs.refuse ..
      · exact hs.offer (hs.watchOp ..)

theorem execUnwatch_noticeOutcome : NoticeOutcome s (execUnwatch s) :=
  noticeOutcome_serve fun p params => by
    have hs := NoticeRun.refl s
    split
    · exact hs.refuse ..
    · split
      · exact hs.offer (hs.unwatchOp ..)
      · exact hs.refuse ..

theorem execQuery_noticeOutcome : NoticeOutcome s (execQuery s) :=
  noticeOutcome_serve fun p params => by
    have hs := NoticeRun.refl s
    split
    · exact hs.refuse ..
    · split
      · exact hs.offer (hs.queryOp ..)
      · exact hs.refuse ..

theorem execGiveQuota_noticeOutcome : NoticeOutcome s (execGiveQuota s) :=
  noticeOutcome_serve fun p params => by
    have hs := NoticeRun.refl s
    split
    · exact hs.refuse ..
    · split_ifs
      · exact hs.refuse ..
      · exact hs.refuse ..
      · refine NoticeRun.complete ?_ ..
        exact hs.frame rfl rfl
      · exact hs.refuse ..

/-! ## Timers -/

theorem execConfigure_noticeOutcome : NoticeOutcome s (execConfigure s) :=
  noticeOutcome_serve fun p params => by
    have hs := NoticeRun.refl s
    split
    · exact hs.refuse ..
    · exact hs.ownerRequest fun n => hs.configureOp p n ..

theorem execArm_noticeOutcome : NoticeOutcome s (execArm s) :=
  noticeOutcome_serve fun p params => by
    have hs := NoticeRun.refl s
    split
    · exact hs.refuse ..
    · exact hs.ownerRequest fun n => hs.armOp p n _

theorem execDisarm_noticeOutcome : NoticeOutcome s (execDisarm s) :=
  noticeOutcome_serve fun p _ => (NoticeRun.refl s).ownerRequest ((NoticeRun.refl s).disarmOp p)

/-! ## The timebase -/

theorem execTakeAuthority_noticeOutcome : NoticeOutcome s (execTakeAuthority s) :=
  noticeOutcome_serve fun p _ => by
    have hs := NoticeRun.refl s
    split
    · refine NoticeRun.complete ?_ ..
      exact hs.frame rfl rfl
    · split
      · exact hs.complete ..
      · exact hs.complete ..

theorem execYieldAuthority_noticeOutcome : NoticeOutcome s (execYieldAuthority s) :=
  noticeOutcome_serve fun p _ => by
    have hs := NoticeRun.refl s
    split
    · refine NoticeRun.complete ?_ ..
      exact hs.frame rfl rfl
    · exact hs.refuse ..

theorem execStepTime_noticeOutcome : NoticeOutcome s (execStepTime s) :=
  noticeOutcome_serve fun p params => (NoticeRun.refl s).withAuthority fun delta => by
    have hs := NoticeRun.refl s
    dsimp only; split_ifs
    · exact hs.refuse ..
    · exact hs.refuse ..
    · have htime : NoticeRun s { s with time := BitVec.ofNat 64 (s.time.toNat + delta) } := hs.frame rfl rfl
      exact (htime.foldl (fun t q => (NoticeRun.refl t).deliver _ q) _).complete ..

theorem execSlew_noticeOutcome : NoticeOutcome s (execSlew s) :=
  noticeOutcome_serve fun p params => (NoticeRun.refl s).withAuthority fun (amount, span) => by
    have hs := NoticeRun.refl s
    dsimp only; split
    · exact hs.refuse ..
    · refine NoticeRun.complete ?_ ..
      exact hs.frame rfl rfl

theorem execCancelSlew_noticeOutcome : NoticeOutcome s (execCancelSlew s) :=
  noticeOutcome_serve fun p _ => (NoticeRun.refl s).withAuthority fun _ => by
    have hs := NoticeRun.refl s
    split
    · exact hs.refuse ..
    · exact (hs.endSlew _).complete ..

theorem execSetDivisor_noticeOutcome : NoticeOutcome s (execSetDivisor s) :=
  noticeOutcome_serve fun p params => (NoticeRun.refl s).withAuthority fun divisor => by
    refine NoticeRun.complete ?_ ..
    exact (NoticeRun.refl s).frame rfl rfl

theorem execSlewEnd_noticeOutcome (pins : BitVec 8) (early : Nat) (doneFirst : Bool) :
    NoticeOutcome s (execSlewEnd pins early doneFirst s) :=
  noticeOutcome_live <| by
    have hs := NoticeRun.refl s
    split
    · exact hs
    · split_ifs
      · exact hs.endSlew _
      · exact hs.tick ..
      · exact hs

theorem execRefclkRisingEdge_noticeOutcome (pins : BitVec 8) (tickLater : Bool) :
    NoticeOutcome s (execRefclkRisingEdge pins s tickLater) :=
  noticeOutcome_next <| by
    have hs := NoticeRun.refl s
    split_ifs
    · exact hs.with_inputs _
    · exact (hs.takeTick 0 false).refclkEdge pins tickLater
    · exact hs.refclkEdge pins tickLater

/-- The expired holdoff sets ATTNn once more, under the settings as they are (R136, R137). -/
theorem execHoldoffExpired_noticeOutcome (p : PortNo) : NoticeOutcome s (execHoldoffExpired p s) :=
  noticeOutcome_live <| by
    have hs := NoticeRun.refl s
    split
    · exact hs.setPort (.setAttention (s.port p).threshold (s.port p).holdoff)
    · exact hs

/-! ## Lines -/

theorem execClaimOutput_noticeOutcome : NoticeOutcome s (execClaimOutput s) :=
  noticeOutcome_serve fun p params => by
    have hs := NoticeRun.refl s
    have hline (l : LineNo) (o : OutputLine) : NoticeRun s (s.setOutput l o) := hs.frame rfl rfl
    split
    · exact hs.refuse ..
    · dsimp only; split
      · split
        · exact (hline ..).complete ..
        · exact hs.complete ..
      · exact (hline ..).complete ..

theorem execDriveOutput_noticeOutcome : NoticeOutcome s (execDriveOutput s) :=
  noticeOutcome_serve fun p params => by
    have hs := NoticeRun.refl s
    split
    · exact hs.refuse ..
    · dsimp only; split
      · refine NoticeRun.complete ?_ ..
        exact hs.frame rfl rfl
      · exact hs.refuse ..

theorem execReleaseOutput_noticeOutcome : NoticeOutcome s (execReleaseOutput s) :=
  noticeOutcome_serve fun p params => by
    have hs := NoticeRun.refl s
    split
    · exact hs.refuse ..
    · dsimp only; split_ifs
      · exact hs.refuse ..
      · exact hs.refuse ..
      · refine NoticeRun.complete ?_ ..
        exact hs.frame rfl rfl

theorem execEdgeRecognized_noticeOutcome (line : LineNo) : NoticeOutcome s (execEdgeRecognized line s) :=
  noticeOutcome_live <| by
    split
    · exact (NoticeRun.refl s).recognize line
    · exact .refl s

theorem execRecordTake_noticeOutcome (early : Nat) : NoticeOutcome s (execRecordTake s early) :=
  noticeOutcome_live <| by
    split
    · next rec _ _ _ =>
      refine NoticeRun.leaveIfApplied ?_ early
      exact ((NoticeRun.refl s).reportLost rec).frame rfl rfl
    · exact .refl s

theorem execInsertCompletion_noticeOutcome (early : Nat) : NoticeOutcome s (execInsertCompletion s early) :=
  noticeOutcome_live <| by
    have hs := NoticeRun.refl s
    split
    · split
      · exact (hs.finishInsert _).leaveIfApplied early
      · exact hs.finishInsert _
    · exact hs

/-! ## The Dispatch Unit -/

theorem execTakeHead_noticeOutcome (upTo : FiringStage) : NoticeOutcome s (execTakeHead s upTo) :=
  noticeOutcome_live <| by
    split
    · split
      · split
        · refine NoticeRun.carryFiring ?_ upTo
          exact (NoticeRun.refl s).frame rfl rfl
        · exact .refl s
      · exact .refl s
    · exact .refl s

theorem execSettling_noticeOutcome (upTo : Option FiringStage) : NoticeOutcome s (execSettling s upTo) :=
  noticeOutcome_live <| by
    have hs := NoticeRun.refl s
    split
    · exact hs.carryFiring _
    · exact (hs.carryFiring _).settle
    · exact hs

/-! ## The engine -/

theorem execSetAttention_noticeOutcome : NoticeOutcome s (execSetAttention s) :=
  noticeOutcome_serve fun p params => by
    have hs := NoticeRun.refl s
    split
    · exact hs.refuse ..
    · exact (hs.setPort (.setAttention ..)).complete ..

theorem execPortArbiterGrant_noticeOutcome (pause : Option Nat) : NoticeOutcome s (execPortArbiterGrant pause s) :=
  noticeOutcome_live <| by
    split
    · next p _ _ =>
      have hs : NoticeRun s { s with pointer := p + 1 } := (NoticeRun.refl s).frame rfl rfl
      dsimp only; split
      · have hgranted (x : HostPort) (hx : PortMove (s.port p) x) :
            NoticeRun s { State.setPort { s with pointer := p + 1 } p x with engine := .granted p } :=
          (hs.setPort hx).setEngine (.inl rfl)
        split
        · exact (hgranted _ (.keep ..)).refuse ..
        · exact hgranted _ (.keep ..)
      · exact ((hs.setPort (.keep ..)).trans (.beginTeardown p false)).runTeardown _
    · exact .refl s

theorem execSecondStageOperation_noticeOutcome (client : Client) (pause : Option Nat) (early : Nat) :
    NoticeOutcome s (execSecondStageOperation client pause s early) :=
  noticeOutcome_live <| by
    have hs := NoticeRun.refl s
    cases client with
    | engine => exact hs.resumeEngine pause
    | lineMonitor =>
      dsimp only; split
      · exact hs.goOn early
      · exact hs

/-! ## Links, pins and resets -/

theorem execSubmit_noticeOutcome (p : PortNo) (bytes : List Byte) : NoticeOutcome s (execSubmit p bytes s) :=
  noticeOutcome_transaction fun x => by
    split
    · unfold HostPort.submit; dsimp only; split
      · exact .keep ..
      · exact .keep ..
    · exact .keep ..

theorem execFetch_noticeOutcome (p : PortNo) : NoticeOutcome s (execFetch p s) :=
  noticeOutcome_transaction fun x => by split <;> exact .keep ..

theorem execFetchEnd_noticeOutcome (p : PortNo) : NoticeOutcome s (execFetchEnd p s) :=
  noticeOutcome_live <| by
    split
    · exact (NoticeRun.refl s).setPort (.keep ..)
    · exact .refl s

/-- An ACK that is not STALE removes notices from the oldest end, and either is answered (R132). -/
theorem execAck_noticeOutcome (p : PortNo) (seq : Byte × Byte) : NoticeOutcome s (execAck p seq s) :=
  noticeOutcome_transaction fun x => by
    obtain ⟨k, h⟩ | h := afterAck_cases (ackSeq seq) x.notices <;> rw [h]
    · exact (PortMove.ack k).trans (.keep ..)
    · exact .keep ..

theorem execDoNothingTransaction_noticeOutcome (p : PortNo) (selector : Byte) :
    NoticeOutcome s (execDoNothingTransaction p selector s) :=
  noticeOutcome_live <| by
    split
    · exact .refl s
    · exact (NoticeRun.refl s).takeTransaction fun _ => .keep ..

/-- PRSTn acts on the request, the teardown pending and the link of its port (R147, R166). -/
theorem portReset_move (x : HostPort) : PortMove x x.portReset := by
  unfold HostPort.portReset; split
  · exact .keep ..
  · split
    · exact .keep ..
    · exact .keep ..
    · exact .refl x

theorem execPrstnAssert_noticeOutcome (p : PortNo) : NoticeOutcome s (execPrstnAssert p s) :=
  noticeOutcome_next <| by
    have hs := NoticeRun.refl s
    split_ifs
    · exact hs.setPort (.keep ..)
    · exact hs
    · exact hs.setPort ((portReset_move _).trans (.keep ..))

theorem execPrstnRelease_noticeOutcome (p : PortNo) : NoticeOutcome s (execPrstnRelease p s) :=
  noticeOutcome_next <| by
    have hs := NoticeRun.refl s
    split_ifs
    · exact hs.setPort (.keep ..)
    · exact hs.setPort (.keep ..)
    · exact hs

theorem execRstnAssert_noticeOutcome : NoticeOutcome s (execRstnAssert s) :=
  noticeOutcome_next <| by
    split
    · exact .refl s
    · exact .deviceReset ..

theorem execRstnRelease_noticeOutcome (straps : BitVec 2) : NoticeOutcome s (execRstnRelease straps s) :=
  noticeOutcome_next <| by
    split
    · exact .deviceReset ..
    · exact .refl s

/-! ## Every command -/

theorem exec_noticeOutcome (c : Instr) : NoticeOutcome s (exec c s) := by
  have hs := NoticeRun.refl s
  cases c with
  | openSession => exact execOpenSession_noticeOutcome s
  | closeSession pause => exact execCloseSession_noticeOutcome s pause
  | reserve => exact execReserve_noticeOutcome s
  | release => exact execRelease_noticeOutcome s
  | setShare => exact execSetShare_noticeOutcome s
  | watch => exact execWatch_noticeOutcome s
  | unwatch => exact execUnwatch_noticeOutcome s
  | query => exact execQuery_noticeOutcome s
  | giveQuota => exact execGiveQuota_noticeOutcome s
  | configure => exact execConfigure_noticeOutcome s
  | arm => exact execArm_noticeOutcome s
  | disarm => exact execDisarm_noticeOutcome s
  | takeAuthority => exact execTakeAuthority_noticeOutcome s
  | yieldAuthority => exact execYieldAuthority_noticeOutcome s
  | stepTime => exact execStepTime_noticeOutcome s
  | slew => exact execSlew_noticeOutcome s
  | cancelSlew => exact execCancelSlew_noticeOutcome s
  | setDivisor => exact execSetDivisor_noticeOutcome s
  | claimOutput => exact execClaimOutput_noticeOutcome s
  | driveOutput => exact execDriveOutput_noticeOutcome s
  | releaseOutput => exact execReleaseOutput_noticeOutcome s
  | setAttention => exact execSetAttention_noticeOutcome s
  | submit p bytes => exact execSubmit_noticeOutcome s p bytes
  | fetch p => exact execFetch_noticeOutcome s p
  | fetchEnd p => exact execFetchEnd_noticeOutcome s p
  | peek p offset => exact noticeOutcome_transaction fun _ => .keep ..
  | ack p seq => exact execAck_noticeOutcome s p seq
  | time p => exact noticeOutcome_transaction fun _ => .keep ..
  | portstat p => exact noticeOutcome_transaction fun _ => .keep ..
  | doNothingTransaction p selector => exact execDoNothingTransaction_noticeOutcome s p selector
  | chipSelectNegation p => exact noticeOutcome_next (hs.setPort (.keep ..))
  | prstnAssert p => exact execPrstnAssert_noticeOutcome s p
  | prstnRelease p => exact execPrstnRelease_noticeOutcome s p
  | rstnAssert => exact execRstnAssert_noticeOutcome s
  | rstnRelease straps => exact execRstnRelease_noticeOutcome s straps
  | tickEvent pins early doneFirst => exact noticeOutcome_live (hs.tick pins early doneFirst)
  | slewEnd pins early doneFirst => exact execSlewEnd_noticeOutcome s pins early doneFirst
  | holdoffExpired p => exact execHoldoffExpired_noticeOutcome s p
  | edgeRecognized line => exact execEdgeRecognized_noticeOutcome s line
  | recordTake early => exact execRecordTake_noticeOutcome s early
  | edgeApplication early => exact noticeOutcome_live (hs.goOn early)
  | portArbiterGrant pause => exact execPortArbiterGrant_noticeOutcome s pause
  | secondStageOperation client pause early => exact execSecondStageOperation_noticeOutcome s client pause early
  | takeHead upTo => exact execTakeHead_noticeOutcome s upTo
  | settling upTo => exact execSettling_noticeOutcome s upTo
  | insertCompletion early => exact execInsertCompletion_noticeOutcome s early
  | chipSelectAssertion p => exact noticeOutcome_next (hs.setPort (.keep ..))
  | refclkRisingEdge pins tickLater => exact execRefclkRisingEdge_noticeOutcome s pins tickLater

/-- A step is a run: taking the command from its queue concerns no port. -/
theorem step_noticeOutcome : NoticeOutcome s (step s) := by
  unfold step; split
  · exact noticeOutcome_next (.refl s)
  · next c rest _ =>
    have hrest : NoticeRun s { s with pending := rest } := (NoticeRun.refl s).frame rfl rfl
    exact fun s' h => hrest.trans (exec_noticeOutcome _ c s' h)

/-- Settles O48: along the run that a step is, each change of a term of ATTNn sets the line anew (`NoticeRun.attentionLaw`). -/
theorem attentionFollowsItsTerms : Obligations.AttentionFollowsItsTerms :=
  fun s s' hs hstep => (step_noticeOutcome s s' hstep).attentionLaw hs

/-- Settles O49: each move of the run that a step is keeps every queue in shape, and a teardown ends with its port CLOSING and the port's
queue empty (`NoticeRun.noticeLaw`). -/
theorem noticeQueuesKeepShape : Obligations.NoticeQueuesKeepShape :=
  fun s s' hs hstep => (step_noticeOutcome s s' hstep).noticeLaw hs

end Sys2Proof.Claims
end

section
/-! SUPPORT. OPEN (section 9.2): the port as a session begins on it, and what a granted OPEN comes to by the session state. -/

namespace Sys2Proof.Claims

open Sys2Proof.Machine

/-- With no notices in its list a port does not assert ATTNn, whatever its settings (R137). -/
theorem drive_of_notices_nil {x : HostPort} (h : x.notices = []) : x.drive = { x with attn := false } := by
  have hattn : x.attention = false := by simp [HostPort.attention, h]
  rw [HostPort.drive, hattn]

/-- A port OPEN in its next session, at the defaults of a session and with ATTNn negated (R162). -/
def sessionBegun (x : HostPort) : HostPort :=
  { x with session := .opened, sessionNumber := x.sessionNumber + 1, nextSeq := 0, threshold := 1, holdoff := 0, attn := false }

/-- Beginning a session leaves the request in hand, so the OPEN that began it is completed on the port as it now stands. -/
theorem Granted.complete_sessionBegun {s : State} {p : PortNo} {c : Req} {params : List Byte} (h : Granted s p c params)
    (status : Status) (results : List Byte) :
    (s.setPort p (sessionBegun (s.port p))).complete p status results =
      completed (s.setPort p (sessionBegun (s.port p))) p c status results := by
  have hrequest : ((s.setPort p (sessionBegun (s.port p))).port p).request = .executing { code := c.code, params } := by
    rw [State.port_setPort_self]; exact h.request
  exact complete_eq_completed hrequest status results

theorem exec_openSession (s : State) : exec .openSession s = execOpenSession s := rfl

/-- OPEN on a DETACHED port begins the next session; the list of such a port is empty, so ATTNn is negated (R139, R162). -/
theorem exec_openSession_of_detached {s : State} {p : PortNo} (h : Granted s p .openSession [])
    (hd : (s.port p).session = .detached) (hn : (s.port p).notices = []) :
    exec .openSession s = .next
      (completed (s.setPort p (sessionBegun (s.port p))) p .openSession .ok
        ([(s.port p).sessionNumber + 1, BitVec.ofNat 8 (s.quota p).quota, BitVec.ofNat 8 (s.quota p).owned]
          ++ bytesBE 8 s.time.toNat)) := by
  rw [exec_openSession, execOpenSession, h.live_serve, ← h.complete_sessionBegun]
  simp only [hd, drive_of_notices_nil, hn, sessionBegun, State.quota_setPort, State.setPort_time]

/-- OPEN on a port that is OPEN already changes nothing but its own request: the answer is STATE with the present number (R162). -/
theorem exec_openSession_of_opened {s : State} {p : PortNo} (h : Granted s p .openSession [])
    (ho : (s.port p).session = .opened) :
    exec .openSession s = .next (completed s p .openSession .state [(s.port p).sessionNumber]) := by
  simp only [exec_openSession, execOpenSession, h.live_serve, ho, h.complete_eq rfl]

/-- Settles O6, by the session state that the OPEN meets. -/
theorem openBeginsSession : Obligations.OpenBeginsSession :=
  fun _ _ h => ⟨exec_openSession_of_detached h, exec_openSession_of_opened h⟩

end Sys2Proof.Claims
end

section
/-! SUPPORT. What each law of Safety.lean reads of the slots, the firing and the engine, and when a change of one slot keeps the laws of the
Deadline Queue and of the runs. -/

namespace Sys2Proof.Claims

open Sys2Proof.Machine

/-! ## What two states share of their reservations -/

/-- What `f` reads of a reservation is the same, slot by slot, in both states. -/
def Agree {α : Type} (f : Reservation → α) (s t : State) : Prop := ∀ n, (t.held n).map f = (s.held n).map f

/-- Slot `n` holds `x` in `t`; every other slot holds what it held in `s`. -/
def Puts (s : State) (n : SlotNo) (x : Option Reservation) (t : State) : Prop :=
  ∀ m, t.held m = if m = n then x else s.held m

/-- A reservation but for its run and its fire count. -/
def timerless (r : Reservation) : Reservation := { r with run := .idle, fireCount := 0 }

/-- A reservation but for its share and its watcher set. -/
def watchless (r : Reservation) : Reservation := { r with share := .priv, watchers := noWatchers }

theorem Agree.comp {α β : Type} {f : Reservation → α} {s t : State} (h : Agree f s t) (g : α → β) :
    Agree (fun r => g (f r)) s t := fun n => by
  simpa only [Option.map_map, Function.comp_def] using congrArg (Option.map g) (h n)

theorem Puts.agree {α : Type} {f : Reservation → α} {s t : State} {n : SlotNo} {r r' : Reservation} (h : Puts s n (some r') t)
    (hr : s.held n = some r) (hf : f r' = f r) : Agree f s t := fun m => by
  rw [h m]; split
  · next hm => rw [hm, hr]; exact congrArg some hf
  · rfl

theorem Puts.at {s t : State} {n : SlotNo} {x : Option Reservation} (h : Puts s n x t) : t.held n = x := by rw [h n, if_pos rfl]

theorem Puts.of_ne {s t : State} {n m : SlotNo} {x : Option Reservation} (h : Puts s n x t) (hm : m ≠ n) : t.held m = s.held m := by
  rw [h m, if_neg hm]

theorem puts_setSlot (s : State) (n : SlotNo) (x : Slot) : Puts s n x.held (s.setSlot n x) := fun m => s.held_setSlot n m x

theorem puts_setHeld (s : State) (n : SlotNo) (r : Reservation) : Puts s n (some r) (s.setHeld n r) := fun m => s.held_setHeld n m r

/-! ## What is read of a slot -/

theorem isFiring_eq (s : State) (n : SlotNo) : s.isFiring n = (s.held n).any fun r => r.run.isFiring := by
  unfold State.isFiring; cases s.held n <;> rfl

theorem armedAt_eq (s : State) (n : SlotNo) : s.armedAt n = (s.held n).bind fun r => r.run.armedDeadline := by
  unfold State.armedAt; cases s.held n <;> rfl

theorem owns_eq (s : State) (p : PortNo) (n : SlotNo) : s.owns p n = ((s.held n).map (·.owner) == some p) := by
  unfold State.owns; cases s.held n <;> rfl

theorem watches_eq (s : State) (p : PortNo) (n : SlotNo) : s.watches p n = ((s.held n).map (·.watchers)).any (·[p]) := by
  unfold State.watches; cases s.held n <;> rfl

theorem isFiring_of_held {s : State} {n : SlotNo} {r : Reservation} (h : s.held n = some r) : s.isFiring n = r.run.isFiring := by
  rw [isFiring_eq, h]; rfl

theorem armedAt_of_held {s : State} {n : SlotNo} {r : Reservation} (h : s.held n = some r) : s.armedAt n = r.run.armedDeadline := by
  rw [armedAt_eq, h]; rfl

theorem armedAt_of_isFiring {s : State} {n : SlotNo} (h : s.isFiring n = true) : s.armedAt n = none := by
  rw [isFiring_eq] at h; rw [armedAt_eq]
  cases hr : s.held n with
  | none => rfl
  | some r =>
    rw [hr] at h
    cases hrun : r.run <;> simp [hrun, Run.isFiring, Run.armedDeadline] at h ⊢

/-! ## The laws of owners, output actions, binding lists and watchers -/

theorem quotaLaw_of_agree {s t : State} (h : Agree (·.owner) s t) (hq : t.quotas = s.quotas) (hs : s.QuotaLaw) : t.QuotaLaw := by
  have howns (p) : t.owns p = s.owns p := funext fun n => by rw [owns_eq, owns_eq, h n]
  have hfree (n) : (t.held n).isNone = (s.held n).isNone := by simpa using congrArg Option.isNone (h n)
  have hquota (p) : t.quota p = s.quota p := congrArg (·[p]) hq
  simpa only [State.QuotaLaw, State.ownedCount, State.freeCount, howns, hfree, hquota] using hs

theorem outputLaw_iff {s : State} : s.OutputLaw ↔
    (∀ n r a, s.held n = some r → r.action = some a → (s.output a.line).claim = some r.owner) ∧
    ∀ l, (s.output l).claim = none → (s.output l).level = (s.output l).idleLevel := by
  simp only [State.OutputLaw, Option.mem_def]
  exact and_congr_left' (forall_congr' fun n =>
    ⟨fun h r a hr ha => h r hr a ha, fun h r hr a ha => h r a hr ha⟩)

theorem outputLaw_of_agree {s t : State} (h : Agree (fun r => (r.owner, r.action)) s t) (ho : t.outputs = s.outputs)
    (hs : s.OutputLaw) : t.OutputLaw := by
  have hout (l) : t.output l = s.output l := congrArg (·[l]) ho
  rw [outputLaw_iff] at hs ⊢
  refine ⟨fun n r a hr ha => ?_, fun l => by rw [hout]; exact hs.2 l⟩
  obtain ⟨r', hr', heq⟩ : ∃ r', s.held n = some r' ∧ (r'.owner, r'.action) = (r.owner, r.action) := by
    simpa [hr] using (h n).symm
  obtain ⟨howner, haction⟩ := Prod.mk.inj heq
  rw [hout, ← howner]
  exact hs.1 n r' a hr' (haction.trans ha)

theorem bindingLaw_of_agree {s t : State} (h : Agree (·.mode.line) s t)
    (hb : ∀ l, (t.input l).bindings = (s.input l).bindings) (hs : s.BindingLaw) : t.BindingLaw := by
  intro l
  obtain ⟨hlen, hnodup, hmem⟩ := hs l
  refine ⟨hb l ▸ hlen, hb l ▸ hnodup, fun n => ?_⟩
  rw [hb, hmem]
  have hn := h n
  cases hs : s.held n <;> cases ht : t.held n <;> simp_all

theorem bindingLaw_of_bindings {s t : State} (h : t.slots = s.slots) (hb : ∀ l, (t.input l).bindings = (s.input l).bindings) :
    s.BindingLaw → t.BindingLaw :=
  bindingLaw_of_agree (fun n => by simp only [State.held, State.slot, h]) hb

/-- The port and the slot of a WATCH that waits (R17). -/
def watchWaits : Engine → Option (PortNo × SlotNo)
  | .waiting p (.watch n) _ => some (p, n)
  | _ => none

theorem watcherLaw_iff {s : State} : s.WatcherLaw ↔
    (∀ n r, s.held n = some r → r.watchers[r.owner] = false ∧ (r.share = .priv → r.watchers = noWatchers)) ∧
    ∀ p n, watchWaits s.engine = some (p, n) → ∃ r, s.held n = some r ∧ r.owner ≠ p ∧ r.share = .opn := by
  simp only [State.WatcherLaw, Option.mem_def]
  refine and_congr_right' ?_
  cases he : s.engine with
  | waiting p op on => cases op <;> simp [watchWaits]
  | _ => simp [watchWaits]

theorem watcherLaw_of_agree {s t : State} (h : Agree (fun r => (r.owner, r.share, r.watchers)) s t)
    (he : watchWaits t.engine = none ∨ watchWaits t.engine = watchWaits s.engine) (hs : s.WatcherLaw) : t.WatcherLaw := by
  rw [watcherLaw_iff] at hs ⊢
  have hback (n r) (hr : t.held n = some r) :
      ∃ r', s.held n = some r' ∧ r'.owner = r.owner ∧ r'.share = r.share ∧ r'.watchers = r.watchers := by
    simpa [hr] using (h n).symm
  have hforth (n r) (hr : s.held n = some r) :
      ∃ r', t.held n = some r' ∧ r'.owner = r.owner ∧ r'.share = r.share ∧ r'.watchers = r.watchers := by
    simpa [hr] using h n
  refine ⟨fun n r hr => ?_, fun p n hw => ?_⟩
  · obtain ⟨r', hr', ho, hsh, hw⟩ := hback n r hr
    simpa only [ho, hsh, hw] using hs.1 n r' hr'
  · obtain he | he := he
    · exact absurd (he.symm.trans hw) nofun
    · obtain ⟨r, hr, ho, hsh⟩ := hs.2 p n (he ▸ hw)
      obtain ⟨r', hr', ho', hsh', -⟩ := hforth n r hr
      exact ⟨r', hr', ho' ▸ ho, hsh'.trans hsh⟩

/-- The port whose request the engine holds WAITING (R148). -/
def waitingPort : Engine → Option PortNo
  | .waiting p _ _ => some p
  | .free | .granted _ | .inserting _ | .teardown _ _ _ _ _ => none

/-- The port holds nothing: no slot, no watching, no output line and no time authority (R160). -/
def EmptyHanded (s : State) (p : PortNo) : Prop :=
  (∀ n, s.owns p n = false ∧ s.watches p n = false) ∧ (∀ l, (s.output l).claim ≠ some p) ∧ s.authority ≠ some p

theorem detachedLaw_iff {s : State} : s.DetachedLaw ↔
    (∀ p, (s.port p).session = .detached → EmptyHanded s p) ∧
    (∀ p, waitingPort s.engine = some p → (s.port p).session = .opened) ∧ s.ClosingLaw := by
  unfold State.DetachedLaw State.ClosingLaw EmptyHanded
  refine and_congr_right' ?_
  cases s.engine <;> simp [waitingPort]

theorem emptyHanded_of_agree {s t : State} {p : PortNo} (h : Agree (fun r => (r.owner, r.watchers)) s t)
    (ho : t.outputs = s.outputs) (ha : t.authority = s.authority) (hs : EmptyHanded s p) : EmptyHanded t p := by
  have howns (n) : t.owns p n = s.owns p n := by rw [owns_eq, owns_eq, h.comp Prod.fst n]
  have hwatches (n) : t.watches p n = s.watches p n := by rw [watches_eq, watches_eq, h.comp Prod.snd n]
  have hout (l) : t.output l = s.output l := congrArg (·[l]) ho
  simpa only [EmptyHanded, howns, hwatches, hout, ha] using hs

/-! ## The law of the Deadline Queue -/

/-- `State.TimerLaw` by its parts. -/
structure TimerShape (s : State) : Prop where
  firing : ∀ n, s.isFiring n = true ↔ s.firing.map (·.slot) = some n
  entry : ∀ e ∈ s.queue, s.armedAt e.slot = some e.deadline
  armed : ∀ n, s.armedAt n ≠ none → ∃ e ∈ s.queue, e.slot = n
  once : (s.queue.map (·.slot)).Nodup
  inFlight : ∀ i, s.insertion = some i →
    (s.held i.slot).isSome = true ∧ s.armedAt i.slot = none ∧ (i.client = .dispatch ↔ s.isFiring i.slot = true)

theorem timerShape_iff {s : State} : TimerShape s ↔ s.TimerLaw := by
  constructor
  · rintro ⟨firing, entry, armed, once, inFlight⟩
    exact ⟨firing, entry, armed, once, inFlight⟩
  · rintro ⟨firing, entry, armed, once, inFlight⟩
    exact ⟨firing, entry, armed, once, inFlight⟩

theorem timerLaw_of_agree {s t : State} (h : Agree (·.run) s t) (hq : t.queue = s.queue)
    (hf : t.firing.map (·.slot) = s.firing.map (·.slot)) (hi : t.insertion = s.insertion) (hs : s.TimerLaw) : t.TimerLaw := by
  have hfiring (n) : t.isFiring n = s.isFiring n := by
    have := congrArg (Option.any Run.isFiring) (h n)
    rw [isFiring_eq, isFiring_eq]; simpa only [Option.any_map, Function.comp_def] using this
  have harmed (n) : t.armedAt n = s.armedAt n := by
    have := congrArg (fun x => Option.bind x Run.armedDeadline) (h n)
    rw [armedAt_eq, armedAt_eq]; simpa only [Option.bind_map, Function.comp_def] using this
  have hheld (n) : (t.held n).isSome = (s.held n).isSome := by simpa using congrArg Option.isSome (h n)
  simpa only [State.TimerLaw, hfiring, harmed, hheld, hq, hf, hi] using hs

/-- A slot that is not ARMED has no entry to take out (R26). -/
theorem TimerShape.filter_queue {s : State} (hs : TimerShape s) {n : SlotNo} (hn : s.armedAt n = none) :
    s.queue.filter (fun e => e.slot ≠ n) = s.queue := by
  refine List.filter_eq_self.2 fun e he => ?_
  have : e.slot ≠ n := fun h => by have := hs.entry e he; rw [h, hn] at this; cases this
  simpa using this

/-- A change of slot `n` and of the firing record, as the firing and the other slots see it. -/
theorem TimerShape.firing_of_puts {s t : State} {n : SlotNo} {x : Option Reservation} (hs : TimerShape s) (hp : Puts s n x t)
    (hx : x.any (fun r => r.run.isFiring) = false)
    (hf : ∀ m, t.firing.map (·.slot) = some m ↔ m ≠ n ∧ s.firing.map (·.slot) = some m) (m : SlotNo) :
    t.isFiring m = true ↔ t.firing.map (·.slot) = some m := by
  rw [hf, ← hs.firing, isFiring_eq, isFiring_eq]
  by_cases hm : m = n
  · subst hm; simp only [hp.at, hx, ne_eq, not_true_eq_false, false_and, Bool.false_eq_true]
  · simp only [hp.of_ne hm, ne_eq, hm, not_false_eq_true, true_and]

/-- A slot out of the firing leaves the firing record as it is. -/
theorem TimerShape.firing_elsewhere {s t : State} (hs : TimerShape s) {n : SlotNo} (hn : s.isFiring n = false)
    (hf : t.firing.map (·.slot) = s.firing.map (·.slot)) (m : SlotNo) :
    t.firing.map (·.slot) = some m ↔ m ≠ n ∧ s.firing.map (·.slot) = some m := by
  rw [hf]
  refine ⟨fun h => ⟨fun hm => ?_, h⟩, And.right⟩
  rw [hm, ← hs.firing, hn] at h; cases h

/-- The firing of slot `n` ends. -/
theorem firing_ended {s t : State} {n : SlotNo} (hn : s.firing.map (·.slot) = some n) (hf : t.firing = none) (m : SlotNo) :
    t.firing.map (·.slot) = some m ↔ m ≠ n ∧ s.firing.map (·.slot) = some m := by
  rw [hf, hn]; simp [eq_comm]

/-- A slot leaves the queue, if it was in it, and is not FIRING afterwards (R31, R76). -/
theorem TimerShape.quiet {s t : State} (hs : TimerShape s) {n : SlotNo} {x : Option Reservation} (hp : Puts s n x t)
    (hx : x.any (fun r => r.run.isFiring) = false) (ha : x.bind (fun r => r.run.armedDeadline) = none)
    (hq : t.queue = s.queue.filter fun e => e.slot ≠ n)
    (hf : ∀ m, t.firing.map (·.slot) = some m ↔ m ≠ n ∧ s.firing.map (·.slot) = some m) (hi : t.insertion = none) :
    TimerShape t where
  firing := hs.firing_of_puts hp hx hf
  entry e he := by
    obtain ⟨he, hne⟩ : e ∈ s.queue ∧ e.slot ≠ n := by simpa [hq] using he
    rw [armedAt_eq, hp.of_ne hne, ← armedAt_eq]; exact hs.entry e he
  armed m hm := by
    have hne : m ≠ n := by rintro rfl; exact hm (by rw [armedAt_eq, hp.at, ha])
    rw [armedAt_eq, hp.of_ne hne, ← armedAt_eq] at hm
    obtain ⟨e, he, rfl⟩ := hs.armed m hm
    exact ⟨e, by simpa [hq] using ⟨he, hne⟩, rfl⟩
  once := by rw [hq]; exact hs.once.sublist (List.filter_sublist.map _)
  inFlight i h := by rw [hi] at h; cases h

/-- A slot out of the queue enters it at its new deadline, and is not FIRING afterwards (R29). -/
theorem TimerShape.placed {s t : State} (hs : TimerShape s) {n : SlotNo} {r : Reservation} {d : TimeCount} {w : Option TimeCount}
    (hp : Puts s n (some { r with run := .armed d w }) t) (hn : s.armedAt n = none)
    (hq : t.queue = placeEntry { slot := n, deadline := d } s.queue)
    (hf : ∀ m, t.firing.map (·.slot) = some m ↔ m ≠ n ∧ s.firing.map (·.slot) = some m) (hi : t.insertion = none) :
    TimerShape t := by
  have hperm : t.queue.Perm ({ slot := n, deadline := d } :: s.queue) := hq ▸ placeEntry_perm ..
  have hout : ∀ e ∈ s.queue, e.slot ≠ n := fun e he h => by
    have := hs.entry e he; rw [h, hn] at this; cases this
  have hat : t.armedAt n = some d := armedAt_of_held hp.at
  refine ⟨hs.firing_of_puts hp rfl hf, fun e he => ?_, fun m hm => ?_, ?_, fun i h => by rw [hi] at h; cases h⟩
  · obtain rfl | he := List.mem_cons.1 (hperm.mem_iff.1 he)
    · exact hat
    · rw [armedAt_eq, hp.of_ne (hout e he), ← armedAt_eq]; exact hs.entry e he
  · by_cases hne : m = n
    · exact ⟨_, hperm.mem_iff.2 List.mem_cons_self, hne.symm⟩
    · rw [armedAt_eq, hp.of_ne hne, ← armedAt_eq] at hm
      obtain ⟨e, he, rfl⟩ := hs.armed m hm
      exact ⟨e, hperm.mem_iff.2 (List.mem_cons_of_mem _ he), rfl⟩
  · rw [(hperm.map _).nodup_iff, List.map_cons, List.nodup_cons]
    exact ⟨by simpa using hout, hs.once⟩

/-! ## The order of the queue -/

theorem sortedLaw_of_sublist {s t : State} (h : t.queue.Sublist s.queue) (hs : s.SortedLaw) : t.SortedLaw :=
  List.Pairwise.sublist (h.map _) hs

/-- The new entry stands behind every entry with no later deadline and before the others (R25, R29). -/
theorem sortedLaw_of_placed {s t : State} {e : Entry} (h : t.queue = placeEntry e s.queue) (hs : s.SortedLaw) : t.SortedLaw := by
  have hpair : s.queue.Pairwise fun a b => a.deadline.toNat ≤ b.deadline.toNat := List.pairwise_map.1 hs
  suffices t.queue.Pairwise fun a b => a.deadline.toNat ≤ b.deadline.toNat from List.pairwise_map.2 this
  rw [h, placeEntry_eq]
  clear h hs
  generalize s.queue = q at hpair
  induction q with
  | nil => simp
  | cons a q ih =>
    obtain ⟨hhead, hrest⟩ := List.pairwise_cons.1 hpair
    by_cases ha : a.deadline.toNat ≤ e.deadline.toNat
    · simp only [List.takeWhile_cons, List.dropWhile_cons, ha, decide_true, if_true, List.cons_append]
      refine List.pairwise_cons.2 ⟨fun b hb => ?_, ih hrest⟩
      obtain rfl | hb : b = e ∨ b ∈ q := by
        have hperm := placeEntry_perm e q
        rw [placeEntry_eq] at hperm
        exact List.mem_cons.1 (hperm.mem_iff.1 hb)
      · exact ha
      · exact hhead b hb
    · simp only [List.takeWhile_cons, List.dropWhile_cons, ha, decide_false, Bool.false_eq_true, if_false, List.nil_append]
      refine List.pairwise_cons.2 ⟨fun b hb => ?_, hpair⟩
      obtain rfl | hb := List.mem_cons.1 hb
      · omega
      · have := hhead b hb; omega

/-! ## The law of the runs -/

/-- What a firing record says to the law of the runs. -/
def firingCore (f : FiringRecord) : SlotNo × Bool × Half := (f.slot, f.final, f.fireCount)

/-- The mode of a CONFIGURE that waits. -/
def configureWaits : Engine → Option Mode
  | .waiting _ (.configure _ mode _ _) _ => some mode
  | _ => none

/-- `State.RunLaw` by its parts. -/
structure RunShape (s : State) : Prop where
  slots : ∀ n r, s.held n = some r → r.Law
  firing : ∀ x, s.firing.map firingCore = some x →
    ∃ r, s.held x.1 = some r ∧ r.run.isFiring = true ∧ x.2.1 = r.mode.isFinal x.2.2.toNat
  inFlight : ∀ i, s.insertion = some i → ∃ r, s.held i.slot = some r ∧ i.windowStart.isSome = r.mode.isWindow ∧ r.belowLimit ∧
    (i.client ≠ .dispatch → r.run.isFiring = false)
  waiting : ∀ mode, configureWaits s.engine = some mode → mode.inRange = true

theorem runShape_iff {s : State} : RunShape s ↔ s.RunLaw := by
  have hwait : (∀ mode, configureWaits s.engine = some mode → mode.inRange = true) ↔
      (match s.engine with
        | .waiting _ (.configure _ mode _ _) _ => mode.inRange = true
        | _ => True) := by
    cases he : s.engine with
    | waiting p op on => cases op <;> simp [configureWaits]
    | _ => simp [configureWaits]
  constructor
  · rintro ⟨slots, firing, inFlight, waiting⟩
    refine ⟨slots, fun f hf => ?_, inFlight, hwait.1 waiting⟩
    exact firing (firingCore f) (congrArg (Option.map firingCore) hf)
  · rintro ⟨slots, firing, inFlight, waiting⟩
    refine ⟨slots, fun x hx => ?_, inFlight, hwait.2 waiting⟩
    obtain ⟨f, hf, rfl⟩ := Option.map_eq_some_iff.1 hx
    exact firing f hf

/-- Slot `n` changes, and with it perhaps the firing record; no insertion is in flight afterwards. -/
theorem RunShape.update {s t : State} (hs : RunShape s) {n : SlotNo} {x : Option Reservation} (hp : Puts s n x t)
    (hx : ∀ r, x = some r → r.Law)
    (hf : ∀ y, t.firing.map firingCore = some y → y.1 ≠ n ∧ s.firing.map firingCore = some y) (hi : t.insertion = none)
    (he : configureWaits t.engine = configureWaits s.engine) : RunShape t where
  slots m r hr := by
    by_cases hm : m = n
    · exact hx r (by rw [← hr, hm, hp.at])
    · exact hs.slots m r (by rw [← hr, hp.of_ne hm])
  firing y hy := by
    obtain ⟨hne, hy⟩ := hf y hy
    rw [hp.of_ne hne]; exact hs.firing y hy
  inFlight i h := by rw [hi] at h; cases h
  waiting mode h := hs.waiting mode (he ▸ h)

/-- A slot out of the firing leaves the firing record as it is. -/
theorem RunShape.firing_elsewhere {s t : State} (hs : RunShape s) {n : SlotNo} (hn : s.isFiring n = false)
    (hf : t.firing.map firingCore = s.firing.map firingCore) (y) (hy : t.firing.map firingCore = some y) :
    y.1 ≠ n ∧ s.firing.map firingCore = some y := by
  rw [hf] at hy
  refine ⟨fun h => ?_, hy⟩
  obtain ⟨r, hr, hrun, -⟩ := hs.firing y hy
  rw [h] at hr; rw [isFiring_of_held hr, hrun] at hn; cases hn

theorem runLaw_of_agree {s t : State} (h : Agree (fun r => (r.mode, r.run, r.fireCount)) s t)
    (hf : t.firing.map firingCore = s.firing.map firingCore) (hi : t.insertion = s.insertion)
    (he : configureWaits t.engine = none ∨ configureWaits t.engine = configureWaits s.engine) (hs : s.RunLaw) : t.RunLaw := by
  rw [← runShape_iff] at hs ⊢
  have hback (n r) (hr : t.held n = some r) :
      ∃ r', s.held n = some r' ∧ r'.mode = r.mode ∧ r'.run = r.run ∧ r'.fireCount = r.fireCount := by
    simpa [hr] using (h n).symm
  have hforth (n r) (hr : s.held n = some r) :
      ∃ r', t.held n = some r' ∧ r'.mode = r.mode ∧ r'.run = r.run ∧ r'.fireCount = r.fireCount := by
    simpa [hr] using h n
  refine ⟨fun n r hr => ?_, fun y hy => ?_, fun i hi' => ?_, fun mode hm => ?_⟩
  · obtain ⟨r', hr', hmode, hrun, hcount⟩ := hback n r hr
    have := hs.slots n r' hr'
    simpa only [Reservation.Law, Reservation.belowLimit, hmode, hrun, hcount] using this
  · obtain ⟨r, hr, hfiring, hfinal⟩ := hs.firing y (hf ▸ hy)
    obtain ⟨r', hr', hmode, hrun, -⟩ := hforth _ r hr
    exact ⟨r', hr', hrun ▸ hfiring, hmode ▸ hfinal⟩
  · obtain ⟨r, hr, hw, hb, hc⟩ := hs.inFlight i (hi ▸ hi')
    obtain ⟨r', hr', hmode, hrun, hcount⟩ := hforth _ r hr
    exact ⟨r', hr', hmode ▸ hw, by simpa only [Reservation.belowLimit, hmode, hcount] using hb, hrun ▸ hc⟩
  · obtain he | he := he
    · exact absurd (he.symm.trans hm) nofun
    · exact hs.waiting mode (he ▸ hm)

end Sys2Proof.Claims
end

section
/-! SUPPORT. `Lawful`: a part of a step that keeps every law of Safety.lean (but those of the notice queues and of the edge FIFO), moves no
command and does not take time back; `Keeps` leaves the generations as well. The single changes that steps are made of. -/

namespace Sys2Proof.Claims

open Sys2Proof.Machine

/-! ## Keeping the laws -/

/-- From `s` to `t` every law is kept, no command is moved and time does not go back. -/
structure Lawful (s t : State) : Prop where
  pending : t.pending = s.pending
  time : s.time.toNat ≤ t.time.toNat
  sorted : s.SortedLaw → t.SortedLaw
  timer : s.TimerLaw → t.TimerLaw
  run : s.RunLaw → s.TimerLaw → t.RunLaw
  quota : s.QuotaLaw → t.QuotaLaw
  output : s.OutputLaw → t.OutputLaw
  binding : s.BindingLaw → t.BindingLaw
  divider : s.DividerLaw → t.DividerLaw
  slew : s.SlewLaw → t.SlewLaw
  watcher : s.WatcherLaw → t.WatcherLaw
  detached : s.DetachedLaw → t.DetachedLaw
  engine : s.EngineLaw → s.ClosingLaw → t.EngineLaw
  closing : s.ClosingLaw → t.ClosingLaw
  link : s.LinkLaw → t.LinkLaw

/-- `Lawful`, and no generation changes (R3). -/
structure Keeps (s t : State) : Prop extends Lawful s t where
  generation : ∀ n, (t.slot n).generation = (s.slot n).generation

/-- A law that a change does not touch is kept as it stands: the changes below take this and give the laws that they touch. -/
theorem Lawful.refl (s : State) : Lawful s s :=
  ⟨rfl, Nat.le_refl _, id, id, fun h _ => h, id, id, id, id, id, id, id, fun h _ => h, id, id⟩

theorem Keeps.refl (s : State) : Keeps s s := ⟨.refl s, fun _ => rfl⟩

theorem Lawful.trans {s t u : State} (h : Lawful s t) (h' : Lawful t u) : Lawful s u where
  pending := h'.pending.trans h.pending
  time := h.time.trans h'.time
  sorted hs := h'.sorted (h.sorted hs)
  timer hs := h'.timer (h.timer hs)
  run hs ht := h'.run (h.run hs ht) (h.timer ht)
  quota hs := h'.quota (h.quota hs)
  output hs := h'.output (h.output hs)
  binding hs := h'.binding (h.binding hs)
  divider hs := h'.divider (h.divider hs)
  slew hs := h'.slew (h.slew hs)
  watcher hs := h'.watcher (h.watcher hs)
  detached hs := h'.detached (h.detached hs)
  engine hs hc := h'.engine (h.engine hs hc) (h.closing hc)
  closing hs := h'.closing (h.closing hs)
  link hs := h'.link (h.link hs)

theorem Keeps.trans {s t u : State} (h : Keeps s t) (h' : Keeps t u) : Keeps s u where
  toLawful := h.toLawful.trans h'.toLawful
  generation n := (h'.generation n).trans (h.generation n)

/-! ## Parts that no law reads -/

theorem keeps_pointer (s : State) (p : PortNo) : Keeps s { s with pointer := p } := { Keeps.refl s with }

/-- The input lines but for their binding lists, the edge FIFO and the Line Monitor. -/
theorem keeps_lines {s : State} {inputs : Vector InputLine 8} (fifo : List EdgeRecord) (monitor : MonitorPhase)
    (h : ∀ l, (State.input { s with inputs } l).bindings = (s.input l).bindings) :
    Keeps s { s with inputs, fifo, monitor } :=
  { Keeps.refl s with binding := bindingLaw_of_bindings rfl h }

theorem keeps_monitor (s : State) (monitor : MonitorPhase) : Keeps s { s with monitor } := { Keeps.refl s with }

/-! ## The ports and the engine -/

/-- `State.EngineLaw` by its parts; `armer` is the port whose ARM an insertion belongs to (R28). -/
def armer (i : Option Insertion) : Option PortNo :=
  i.bind fun i => match i.client with
    | .engine p _ => some p
    | .lineMonitor | .dispatch => none

structure EngineShape (s : State) : Prop where
  executing : ∀ p, (s.port p).request.isExecuting = true ↔ s.engine.requestPort = some p
  inserting : ∀ p, s.engine = .inserting p ↔ armer s.insertion = some p
  ports : ∀ p, (s.port p).RequestLaw

theorem engineShape_iff {s : State} : EngineShape s ↔ s.EngineLaw := by
  have harmer (p : PortNo) : armer s.insertion = some p ↔ ∃ i ∈ s.insertion, ∃ results, i.client = .engine p results := by
    cases s.insertion with
    | none => simp [armer]
    | some i => cases h : i.client <;> simp [armer, h]
  constructor
  · rintro ⟨executing, inserting, ports⟩
    exact ⟨executing, fun p => (inserting p).trans (harmer p), ports⟩
  · rintro ⟨executing, inserting, ports⟩
    exact ⟨executing, fun p => (inserting p).trans (harmer p).symm, ports⟩

/-- What link transactions, pins, arrivals and OPEN do with a port, as the laws see it. -/
structure PortStep (rstn : Bool) (x y : HostPort) : Prop where
  session : y.session = x.session ∨ (x.session = .detached ∧ y.session = .opened)
  executing : x.RequestLaw → y.request.isExecuting = x.request.isExecuting
  request : x.RequestLaw → y.RequestLaw
  link : (x.link = .inert ↔ rstn = true ∨ x.prstn = true) → (y.link = .inert ↔ rstn = true ∨ y.prstn = true)

theorem PortStep.refl (rstn : Bool) (x : HostPort) : PortStep rstn x x := ⟨.inl rfl, fun _ => rfl, id, id⟩

/-- A change of the notice queue, attention, the session's number and settings, the snapshot and chip select alone. -/
theorem portStep_notices (rstn : Bool) (x : HostPort) (chipSelect : Bool) (sessionNumber : Byte) (notices : List Stored)
    (nextSeq : Half) (threshold : Nat) (holdoff holdoffCounter : Half) (attn : Bool) (snapshot : Snapshot) :
    PortStep rstn x
      { x with chipSelect, sessionNumber, notices, nextSeq, threshold, holdoff, holdoffCounter, attn, snapshot } :=
  { PortStep.refl rstn x with }

theorem portStep_arrive (rstn : Bool) (x : HostPort) (now : TimeCount) (n : Notice) : PortStep rstn x (x.arrive now n) := by
  obtain ⟨_, _, _, _, h⟩ := x.arrive_frame now n
  rw [h]; exact portStep_notices ..

/-- Every port takes such a step. -/
theorem keeps_ports {s : State} {ports : Vector HostPort 4}
    (h : ∀ p, PortStep s.rstn (s.port p) (State.port { s with ports } p)) : Keeps s { s with ports } := by
  have hclosing (hs : s.ClosingLaw) : State.ClosingLaw { s with ports } := closingLaw_iff.2 fun p hp => by
    have hold := closingLaw_iff.1 hs p hp
    obtain hsame | ⟨hd, -⟩ := (h p).session
    · exact hsame.trans hold
    · rw [hold] at hd; cases hd
  refine { Keeps.refl s with
           detached := fun hs => ?_, engine := fun hs _ => ?_, closing := hclosing, link := fun hs p => (h p).link (hs p) }
  · obtain ⟨hempty, hwait, hteardown⟩ := detachedLaw_iff.1 hs
    refine detachedLaw_iff.2 ⟨fun p hp => hempty p ?_, fun p hp => ?_, hclosing hteardown⟩
    · obtain hsame | ⟨-, ho⟩ := (h p).session
      · exact hsame.symm.trans hp
      · rw [ho] at hp; cases hp
    · obtain hsame | ⟨-, ho⟩ := (h p).session
      · exact hsame.trans (hwait p hp)
      · exact ho
  · obtain ⟨executing, inserting, ports⟩ := engineShape_iff.2 hs
    exact engineShape_iff.1
      ⟨fun p => by rw [(h p).executing (ports p)]; exact executing p, inserting, fun p => (h p).request (ports p)⟩

theorem keeps_setPort {s : State} {p : PortNo} {x : HostPort} (h : PortStep s.rstn (s.port p) x) : Keeps s (s.setPort p x) :=
  keeps_ports fun q => by
    rw [show State.port { s with ports := s.ports.set p x } q = _ from s.port_setPort p q x]; split
    · next hq => exact hq ▸ h
    · exact .refl ..

/-- The engine has port `p`'s request in hand, and no teardown and no insertion of it (R145). -/
def InHand (s : State) (p : PortNo) : Prop := s.engine = .granted p ∨ ∃ op on, s.engine = .waiting p op on

theorem InHand.requestPort {s : State} {p : PortNo} (h : InHand s p) : s.engine.requestPort = some p := by
  obtain h | ⟨_, _, h⟩ := h <;> rw [h] <;> rfl

theorem InHand.not_inserting {s : State} {p : PortNo} (h : InHand s p) (q : PortNo) : s.engine ≠ .inserting q := by
  obtain h | ⟨_, _, h⟩ := h <;> rw [h] <;> nofun

/-- A request in hand is EXECUTING, so that no teardown of its port is pending and no FETCH of its response is open (R147, R157). -/
theorem RequestLaw.executing {x : HostPort} (hx : x.RequestLaw) (h : x.request.isExecuting = true) :
    x.teardownPending = false ∧ ∀ reply, x.link ≠ .selected (.fetching reply) := by
  obtain ⟨hpending, -, hfetch⟩ := hx
  refine ⟨Bool.eq_false_iff.2 fun hp => ?_, fun reply hl => ?_⟩
  · rw [(hpending hp).2] at h; cases h
  · have hd := hfetch reply hl
    cases hr : x.request <;> simp [hr, RequestState.isExecuting, RequestState.isDone] at h hd

/-- The port whose request completes: it is EXECUTING no longer, and a teardown becomes pending on an OPEN port alone (R144, R147). -/
theorem complete_port {s : State} {p : PortNo} (hlaw : (s.port p).RequestLaw) (hexec : (s.port p).request.isExecuting = true)
    (status : Status) (results : List Byte) :
    ((s.complete p status results).port p).session = (s.port p).session ∧
    ((s.complete p status results).port p).request.isExecuting = false ∧
    ((s.complete p status results).port p).RequestLaw := by
  obtain ⟨hpending, hfetch⟩ := RequestLaw.executing hlaw hexec
  cases hm : (s.port p).resetMark with
  | true =>
    rw [State.complete_of_resetMark hm, State.port_with_engine, State.port_setPort_self]
    refine ⟨rfl, rfl, fun h => ⟨?_, rfl⟩, nofun, fun reply hl => absurd hl (hfetch reply)⟩
    simpa [hpending] using h
  | false =>
    obtain ⟨f, hf⟩ : ∃ f, (s.port p).request = .executing f := by
      cases hr : (s.port p).request <;> simp [hr, RequestState.isExecuting] at hexec ⊢
    rw [State.complete_of_executing hf hm, State.port_with_engine, State.port_setPort_self]
    refine ⟨rfl, rfl, fun h => ?_, fun h => ?_, fun reply hl => absurd hl (hfetch reply)⟩
    · rw [show (s.port p).teardownPending = true from h] at hpending; cases hpending
    · rw [show (s.port p).resetMark = true from h] at hm; cases hm

theorem session_complete (s : State) (p q : PortNo) (status : Status) (results : List Byte) :
    ((s.complete p status results).port q).session = (s.port q).session := by
  obtain ⟨_, _, _, h⟩ := s.complete_frame p status results
  rw [h, State.port_with_engine, State.port_setPort]; split
  · next hq => rw [hq]
  · rfl

theorem port_complete_of_ne (s : State) {p q : PortNo} (h : q ≠ p) (status : Status) (results : List Byte) :
    (s.complete p status results).port q = s.port q := by
  obtain ⟨_, _, _, hs⟩ := s.complete_frame p status results
  rw [hs, State.port_with_engine, State.port_setPort_of_ne _ h]

theorem prstn_link_complete (s : State) (p q : PortNo) (status : Status) (results : List Byte) :
    ((s.complete p status results).port q).prstn = (s.port q).prstn ∧
    ((s.complete p status results).port q).link = (s.port q).link := by
  obtain ⟨_, _, _, h⟩ := s.complete_frame p status results
  rw [h, State.port_with_engine, State.port_setPort]; split
  · next hq => rw [hq]; exact ⟨rfl, rfl⟩
  · exact ⟨rfl, rfl⟩

/-- A request in hand completes (R144, R147). -/
theorem keeps_complete {s : State} {p : PortNo} (h : InHand s p) (status : Status) (results : List Byte) :
    Keeps s (s.complete p status results) := by
  have hsession (q) := session_complete s p q status results
  refine { Keeps.refl s with
    run := fun hr _ => runLaw_of_agree (s := s) (fun _ => rfl) rfl rfl (.inl rfl) hr
    watcher := watcherLaw_of_agree (fun _ => rfl) (.inl rfl)
    closing := fun _ => closingLaw_iff.2 nofun
    link := fun hl q => by
      obtain ⟨hprstn, hlink⟩ := prstn_link_complete s p q status results
      rw [hprstn, hlink]; exact hl q
    detached := fun hd => ?_
    engine := fun he _ => ?_ }
  · obtain ⟨hempty, -, -⟩ := detachedLaw_iff.1 hd
    exact detachedLaw_iff.2 ⟨fun q hq => hempty q (hsession q ▸ hq), nofun, closingLaw_iff.2 nofun⟩
  · obtain ⟨executing, inserting, ports⟩ := engineShape_iff.2 he
    have hexec := (executing p).2 h.requestPort
    obtain ⟨-, hdone, hlaw⟩ := complete_port (ports p) hexec status results
    refine engineShape_iff.1 ⟨fun q => ?_, fun q => ?_, fun q => ?_⟩
    · by_cases hq : q = p
      · subst hq; rw [hdone]; simp [Engine.requestPort]
      · rw [port_complete_of_ne s hq, executing q, h.requestPort]
        simpa [Engine.requestPort] using fun h : p = q => hq h.symm
    · exact ⟨nofun, fun hi => absurd ((inserting q).2 hi) (h.not_inserting q)⟩
    · by_cases hq : q = p
      · subst hq; exact hlaw
      · rw [port_complete_of_ne s hq]; exact ports q

theorem keeps_refuse {s : State} {p : PortNo} (h : InHand s p) (status : Status) : Keeps s (s.refuse p status) :=
  keeps_complete h status []

/-- The engine has in hand, for port `p`, a request whose slot operation is `op`; what its checks found still holds when the operation has
waited (R9, R17, R40, R148, R152). -/
structure Offered (s : State) (p : PortNo) (op : SlotOp) : Prop where
  engine : s.engine = .granted p ∨ ∃ on, s.engine = .waiting p op on
  opened : s.DetachedLaw → (s.port p).session = .opened
  watch : ∀ n, op = .watch n → s.WatcherLaw → ∃ r, s.held n = some r ∧ r.owner ≠ p ∧ r.share = .opn
  configure : ∀ n mode tag action, op = .configure n mode tag action → s.RunLaw → mode.inRange = true

theorem Offered.inHand {s : State} {p : PortNo} {op : SlotOp} (h : Offered s p op) : InHand s p :=
  h.engine.imp_right fun ⟨on, he⟩ => ⟨op, on, he⟩

/-- An operation that waits passed its checks when it was offered. -/
theorem offered_of_waiting {s : State} {p : PortNo} {op : SlotOp} {on : WaitFor} (h : s.engine = .waiting p op on) :
    Offered s p op where
  engine := .inr ⟨on, h⟩
  opened hs := (detachedLaw_iff.1 hs).2.1 p (by rw [h]; rfl)
  watch n hop hs := (watcherLaw_iff.1 hs).2 p n (by rw [h, hop]; rfl)
  configure n mode tag action hop hs := (runShape_iff.2 hs).waiting mode (by rw [h, hop]; rfl)

/-- The engine's operation waits (R6, R148). -/
theorem keeps_wait {s : State} {p : PortNo} {op : SlotOp} (h : Offered s p op) (on : WaitFor) :
    Keeps s { s with engine := .waiting p op on } :=
  { Keeps.refl s with
    run hs _ := by
      have hr := runShape_iff.2 hs
      refine runShape_iff.1 ⟨hr.slots, hr.firing, hr.inFlight, fun mode hm => ?_⟩
      cases op with
      | configure n m tag action => cases hm; exact h.configure _ _ _ _ rfl hs
      | _ => cases hm
    watcher hs := by
      refine watcherLaw_iff.2 ⟨(watcherLaw_iff.1 hs).1, fun q n hw => ?_⟩
      cases op with
      | watch m => cases hw; exact h.watch _ rfl hs
      | _ => cases hw
    detached hs := detachedLaw_iff.2
      ⟨(detachedLaw_iff.1 hs).1, fun q hq => by cases hq; exact h.opened hs, closingLaw_iff.2 nofun⟩
    engine hs _ := by
      obtain ⟨executing, inserting, ports⟩ := engineShape_iff.2 hs
      refine engineShape_iff.1 ⟨fun q => (executing q).trans ?_, fun q => ?_, ports⟩
      · rw [h.inHand.requestPort]; rfl
      · exact ⟨nofun, fun hi => absurd ((inserting q).2 hi) (h.inHand.not_inserting q)⟩
    closing _ := closingLaw_iff.2 nofun }

/-- The engine goes on with the teardown in hand (R164). -/
theorem keeps_teardownEngine {s : State} {p : PortNo} {close : Bool} {released lines : Nat} {on : Option WaitFor}
    (h : s.engine = .teardown p close released lines on) (released' lines' : Nat) (on' : Option WaitFor) :
    Keeps s { s with engine := .teardown p close released' lines' on' } := by
  have hclosing (hs : s.ClosingLaw) : State.ClosingLaw { s with engine := .teardown p close released' lines' on' } :=
    closingLaw_iff.2 fun q hq => closingLaw_iff.1 hs q (by rw [h]; exact hq)
  refine { Keeps.refl s with
           run := fun hs _ => runLaw_of_agree (s := s) (fun _ => rfl) rfl rfl (.inl rfl) hs
           watcher := watcherLaw_of_agree (fun _ => rfl) (.inl rfl), closing := hclosing
           detached := fun hs => ?_, engine := fun hs _ => ?_ }
  · obtain ⟨hempty, -, hteardown⟩ := detachedLaw_iff.1 hs
    exact detachedLaw_iff.2 ⟨hempty, nofun, hclosing hteardown⟩
  · obtain ⟨executing, inserting, ports⟩ := engineShape_iff.2 hs
    refine engineShape_iff.1 ⟨fun q => (executing q).trans ?_, fun q => ?_, ports⟩
    · rw [h]; cases close <;> rfl
    · refine ⟨nofun, fun hi => ?_⟩
      have := (inserting q).2 hi
      rw [h] at this; cases this

/-! ## Authority and output lines -/

/-- Time authority goes to an OPEN port or to none (R89, R90, R164). -/
theorem keeps_authority {s : State} {holder : Option PortNo}
    (h : ∀ p, holder = some p → s.DetachedLaw → (s.port p).session = .opened) : Keeps s { s with authority := holder } :=
  { Keeps.refl s with
    detached hs := by
      obtain ⟨hempty, hwait, hteardown⟩ := detachedLaw_iff.1 hs
      refine detachedLaw_iff.2 ⟨fun p hp => ?_, hwait, hteardown⟩
      obtain ⟨hslots, hlines, -⟩ := hempty p hp
      refine ⟨hslots, hlines, fun ha => ?_⟩
      have hopen := h p ha hs
      rw [show (s.port p).session = .detached from hp] at hopen; cases hopen }

/-- An output line changes: output actions that name it still name their owner's, a FREE line is at its idle level, and a claim is an OPEN
port's (R116, R121, R160). -/
theorem keeps_setOutput {s : State} {l : LineNo} {x : OutputLine}
    (hact : s.OutputLaw → ∀ n r a, s.held n = some r → r.action = some a → a.line = l → x.claim = some r.owner)
    (hidle : s.OutputLaw → x.claim = none → x.level = x.idleLevel)
    (hclaim : ∀ p, x.claim = some p → (s.output l).claim ≠ some p → s.DetachedLaw → (s.port p).session = .opened) :
    Keeps s (s.setOutput l x) :=
  { Keeps.refl s with
    output hs := by
      obtain ⟨hslots, hfree⟩ := outputLaw_iff.1 hs
      refine outputLaw_iff.2 ⟨fun n r a hr ha => ?_, fun k => ?_⟩
      · rw [State.output_setOutput]; split
        · next hl => exact hact hs n r a hr ha hl
        · exact hslots n r a hr ha
      · rw [State.output_setOutput]; split
        · exact hidle hs
        · exact hfree k
    detached hs := by
      obtain ⟨hempty, hwait, hteardown⟩ := detachedLaw_iff.1 hs
      refine detachedLaw_iff.2 ⟨fun p hp => ?_, hwait, hteardown⟩
      obtain ⟨hslots, hlines, hauth⟩ := hempty p hp
      refine ⟨hslots, fun k => ?_, hauth⟩
      rw [State.output_setOutput]; split
      · next hk =>
        intro hx
        have hopen := hclaim p hx (hk ▸ hlines k) hs
        rw [show (s.port p).session = .detached from hp] at hopen; cases hopen
      · exact hlines k }

/-! ## Shares and watcher sets -/

/-- The share or the watcher set of a slot changes (R15 to R19). -/
theorem keeps_setHeld_watch {s : State} {n : SlotNo} {r r' : Reservation} (hr : s.held n = some r)
    (hb : watchless r' = watchless r)
    (hlaw : s.WatcherLaw → r'.watchers[r'.owner] = false ∧ (r'.share = .priv → r'.watchers = noWatchers))
    (hwaits : watchWaits s.engine = none ∨ r'.share = r.share)
    (hports : ∀ p : PortNo, r'.watchers[p] = true → r.watchers[p] = false → s.DetachedLaw → (s.port p).session = .opened) :
    Keeps s (s.setHeld n r') := by
  have hp := puts_setHeld s n r'
  have hagree {α : Type} (f : Reservation → α) (hf : f r' = f r) : Agree f s (s.setHeld n r') := hp.agree hr hf
  have howner : r'.owner = r.owner := congrArg (fun r => r.owner) hb
  have hmode : r'.mode = r.mode := congrArg (fun r => r.mode) hb
  have haction : r'.action = r.action := congrArg (fun r => r.action) hb
  have hrun : r'.run = r.run := congrArg (fun r => r.run) hb
  have hcount : r'.fireCount = r.fireCount := congrArg (fun r => r.fireCount) hb
  refine { Keeps.refl s with
    timer := timerLaw_of_agree (hagree _ hrun) rfl rfl rfl
    run := fun hs _ => runLaw_of_agree (hagree _ (by simp only [hmode, hrun, hcount])) rfl rfl (.inr rfl) hs
    quota := quotaLaw_of_agree (hagree _ howner) rfl
    output := outputLaw_of_agree (hagree _ (by simp only [howner, haction])) rfl
    binding := bindingLaw_of_agree (hagree _ (by simp only [hmode])) fun _ => rfl
    watcher := fun hs => ?_
    detached := fun hs => ?_
    generation := fun m => s.generation_setHeld n m r' }
  · obtain ⟨hslots, hwait⟩ := watcherLaw_iff.1 hs
    refine watcherLaw_iff.2 ⟨fun m x hx => ?_, fun p m hw => ?_⟩
    · by_cases hm : m = n
      · subst hm; rw [hp.at] at hx; cases hx; exact hlaw hs
      · exact hslots m x (hp.of_ne hm ▸ hx)
    · obtain ⟨x, hx, ho, hsh⟩ := hwait p m hw
      by_cases hm : m = n
      · subst hm; rw [hr] at hx; cases hx
        obtain hnone | hshare := hwaits
        · exact absurd (hnone.symm.trans hw) nofun
        · exact ⟨r', hp.at, howner ▸ ho, hshare.trans hsh⟩
      · exact ⟨x, (hp.of_ne hm).trans hx, ho, hsh⟩
  · obtain ⟨hempty, hwait, hteardown⟩ := detachedLaw_iff.1 hs
    refine detachedLaw_iff.2 ⟨fun p hd => ?_, hwait, hteardown⟩
    obtain ⟨hslots, hlines, hauth⟩ := hempty p hd
    refine ⟨fun m => ⟨?_, ?_⟩, hlines, hauth⟩
    · rw [owns_eq, hagree (·.owner) howner m, ← owns_eq]; exact (hslots m).1
    · by_cases hm : m = n
      · subst hm
        have hold : r.watchers[p] = false := by simpa [State.watches, hr] using (hslots m).2
        refine Bool.eq_false_iff.2 fun hw => ?_
        have hnew : r'.watchers[p] = true := by simpa [State.watches, hp.at] using hw
        have hopen := hports p hnew hold hs
        rw [show (s.port p).session = .detached from hd] at hopen; cases hopen
      · rw [watches_eq, hp.of_ne hm, ← watches_eq]; exact (hslots m).2

end Sys2Proof.Claims
end

section
/-! SUPPORT. The Deadline Queue, the runs and the firing: the changes of a slot's run, of the insertion and of the firing record that
steps are made of keep every law. -/

namespace Sys2Proof.Claims

open Sys2Proof.Machine

/-! ## Changes of runs -/

/-- The runs, the queue, the insertion and the firing change, with what the engine does for them; no owner, mode or action does. -/
theorem lawful_timers {s : State} {slots : Vector Slot 64} {queue : List Entry} {insertion : Option Insertion}
    {firing : Option FiringRecord} {monitor : MonitorPhase} {engine : Engine}
    (hb : Agree timerless s { s with slots, queue, insertion, firing, monitor, engine })
    (he : engine = s.engine ∨ ∃ p, engine = .granted p ∨ engine = .inserting p)
    (hreq : s.EngineLaw → engine.requestPort = s.engine.requestPort)
    (hins : s.EngineLaw → ∀ p, engine = .inserting p ↔ armer insertion = some p)
    (sorted : s.SortedLaw → State.SortedLaw { s with slots, queue, insertion, firing, monitor, engine })
    (timer : TimerShape s → TimerShape { s with slots, queue, insertion, firing, monitor, engine })
    (run : RunShape s → TimerShape s → RunShape { s with slots, queue, insertion, firing, monitor, engine }) :
    Lawful s { s with slots, queue, insertion, firing, monitor, engine } := by
  have hwatch : watchWaits engine = none ∨ watchWaits engine = watchWaits s.engine := by
    obtain rfl | ⟨p, rfl | rfl⟩ := he
    · exact .inr rfl
    · exact .inl rfl
    · exact .inl rfl
  have hclosing (hs : s.ClosingLaw) : State.ClosingLaw { s with slots, queue, insertion, firing, monitor, engine } :=
    closingLaw_iff.2 fun p hp => by
      obtain rfl | ⟨q, rfl | rfl⟩ := he
      · exact closingLaw_iff.1 hs p hp
      · cases hp
      · cases hp
  refine { Lawful.refl s with
    sorted := sorted
    timer := fun hs => timerShape_iff.1 (timer (timerShape_iff.2 hs))
    run := fun hr ht => runShape_iff.1 (run (runShape_iff.2 hr) (timerShape_iff.2 ht))
    quota := quotaLaw_of_agree (hb.comp fun r => r.owner) rfl
    output := outputLaw_of_agree (hb.comp fun r => (r.owner, r.action)) rfl
    binding := bindingLaw_of_agree (hb.comp fun r => r.mode.line) fun _ => rfl
    watcher := watcherLaw_of_agree (hb.comp fun r => (r.owner, r.share, r.watchers)) hwatch
    closing := hclosing
    detached := fun hs => ?_
    engine := fun hs _ => ?_ }
  · obtain ⟨hempty, hwait, hteardown⟩ := detachedLaw_iff.1 hs
    refine detachedLaw_iff.2 ⟨fun p hp => ?_, fun p hp => ?_, hclosing hteardown⟩
    · exact emptyHanded_of_agree (s := s) (hb.comp fun r => (r.owner, r.watchers)) rfl rfl (hempty p hp)
    · obtain rfl | ⟨q, rfl | rfl⟩ := he
      · exact hwait p hp
      · cases hp
      · cases hp
  · obtain ⟨executing, -, ports⟩ := engineShape_iff.2 hs
    exact engineShape_iff.1 ⟨fun p => (executing p).trans (by rw [← hreq hs]), hins hs, ports⟩

/-- Such a change without the engine, and without an ARM's insertion. -/
theorem lawful_timers_alone {s : State} {slots : Vector Slot 64} {queue : List Entry} {insertion : Option Insertion}
    {firing : Option FiringRecord} {monitor : MonitorPhase}
    (hb : Agree timerless s { s with slots, queue, insertion, firing, monitor })
    (hi : armer insertion = armer s.insertion)
    (sorted : s.SortedLaw → State.SortedLaw { s with slots, queue, insertion, firing, monitor })
    (timer : TimerShape s → TimerShape { s with slots, queue, insertion, firing, monitor })
    (run : RunShape s → TimerShape s → RunShape { s with slots, queue, insertion, firing, monitor }) :
    Lawful s { s with slots, queue, insertion, firing, monitor } :=
  lawful_timers (engine := s.engine) hb (.inl rfl) (fun _ => rfl)
    (fun hs p => hi ▸ (engineShape_iff.2 hs).inserting p) sorted timer run

/-! ## A slot that starts, stops or is counted -/

/-- A slot that is not FIRING takes a run out of the queue: its entry, if it has one, is taken out. -/
theorem lawful_quiet {s : State} {n : SlotNo} {r r' : Reservation} {queue : List Entry} (generation : Half)
    (hr : s.held n = some r) (hfiring : s.isFiring n = false) (hi : s.insertion = none) (hb : timerless r' = timerless r)
    (hrun : r'.run.isFiring = false) (harmed : r'.run.armedDeadline = none) (hsub : queue.Sublist s.queue)
    (hq : TimerShape s → queue = s.queue.filter fun e => e.slot ≠ n) (hlaw : r.Law → r'.Law) :
    Lawful s (State.setSlot { s with queue } n { generation, held := some r' }) := by
  have hp : Puts s n (some r') (State.setSlot { s with queue } n { generation, held := some r' }) := puts_setSlot { s with queue } n _
  refine lawful_timers_alone (hp.agree hr hb) rfl (sortedLaw_of_sublist hsub) (fun hs => ?_) (fun hs _ => ?_)
  · exact hs.quiet hp hrun harmed (hq hs) (hs.firing_elsewhere hfiring rfl) hi
  · exact hs.update hp (fun x hx => by cases hx; exact hlaw (hs.slots n r hr)) (hs.firing_elsewhere hfiring rfl) hi rfl

/-- REMOVE of a slot that is not FIRING (R31). -/
theorem keeps_remove {s : State} {n : SlotNo} {r r' : Reservation} {run : Run} (hr : s.held n = some r)
    (hfiring : s.isFiring n = false) (hi : s.insertion = none) (hb : timerless r' = timerless r) (hrun : run.isFiring = false)
    (harmed : run.armedDeadline = none) (hlaw : r.Law → Reservation.Law { r' with run }) : Keeps s (s.remove n r' run) where
  toLawful := lawful_quiet (s.slot n).generation hr hfiring hi (r' := { r' with run })
    hb hrun harmed List.filter_sublist (fun _ => rfl) hlaw
  generation m := State.generation_setHeld (s.removeEntry n) n m _

/-- A slot that is IDLE keeps out of the queue: it is raised to its next generation, or takes a run without a deadline (R42, R45, R46). -/
theorem lawful_setSlot_idle {s : State} {n : SlotNo} {r r' : Reservation} (generation : Half) (hr : s.held n = some r)
    (hidle : r.run = .idle) (hi : s.insertion = none) (hb : timerless r' = timerless r) (hrun : r'.run.isFiring = false)
    (harmed : r'.run.armedDeadline = none) (hlaw : r.Law → r'.Law) :
    Lawful s (s.setSlot n { generation, held := some r' }) := by
  have hout : s.armedAt n = none := by rw [armedAt_of_held hr, hidle]; rfl
  have hfiring : s.isFiring n = false := by rw [isFiring_of_held hr, hidle]; rfl
  exact lawful_quiet generation hr hfiring hi hb hrun harmed (List.Sublist.refl _) (fun hs => (hs.filter_queue hout).symm) hlaw

/-- The fire count of a slot is written (R59). -/
theorem keeps_fireCount {s : State} {n : SlotNo} {r : Reservation} (count : Half) (hr : s.held n = some r)
    (hi : s.insertion = none) (hlaw : s.RunLaw → Reservation.Law { r with fireCount := count }) :
    Keeps s (s.setHeld n { r with fireCount := count }) := by
  have hp := puts_setHeld s n { r with fireCount := count }
  refine { toLawful := lawful_timers_alone (hp.agree hr rfl) rfl id (fun hs => ?_) (fun hs _ => ?_)
           generation := fun m => s.generation_setHeld n m _ }
  · exact timerShape_iff.2 (timerLaw_of_agree (hp.agree hr rfl) rfl rfl rfl (timerShape_iff.1 hs))
  · refine ⟨fun m x hx => ?_, fun y hy => ?_, fun i h => ?_, hs.waiting⟩
    · by_cases hm : m = n
      · rw [hm] at hx; cases hp.at.symm.trans hx; exact hlaw (runShape_iff.1 hs)
      · exact hs.slots m x ((hp.of_ne hm).symm.trans hx)
    · obtain ⟨x, hx, hrun, hfinal⟩ := hs.firing y hy
      by_cases hm : y.1 = n
      · rw [hm] at hx ⊢; rw [hr] at hx; cases hx; exact ⟨_, hp.at, hrun, hfinal⟩
      · exact ⟨x, (hp.of_ne hm).trans hx, hrun, hfinal⟩
    · cases hi.symm.trans h

/-! ## Insertions -/

/-- An insertion suits the slot that it is for, where the laws hold (R29). -/
structure Fits (s : State) (i : Insertion) : Prop where
  timer : TimerShape s → (s.held i.slot).isSome = true ∧ s.armedAt i.slot = none ∧
    (i.client = .dispatch ↔ s.isFiring i.slot = true)
  run : RunShape s → ∃ r, s.held i.slot = some r ∧ i.windowStart.isSome = r.mode.isWindow ∧ r.belowLimit ∧
    (i.client ≠ .dispatch → r.run.isFiring = false)

theorem fits_of_inFlight {s : State} {i : Insertion} (h : s.insertion = some i) : Fits s i :=
  ⟨fun hs => hs.inFlight i h, fun hs => hs.inFlight i h⟩

/-- An insertion for a slot that is neither ARMED nor FIRING. -/
theorem fits_of_held {s : State} {i : Insertion} {r : Reservation} (hr : s.held i.slot = some r)
    (harmed : r.run.armedDeadline = none) (hfiring : r.run.isFiring = false) (hc : i.client ≠ .dispatch)
    (hw : i.windowStart.isSome = r.mode.isWindow) (hb : r.Law → r.belowLimit) : Fits s i where
  timer _ := by
    refine ⟨by rw [hr]; rfl, by rw [armedAt_of_held hr, harmed], ?_⟩
    rw [isFiring_of_held hr, hfiring]; simp [hc]
  run hs := ⟨r, hr, hw, hb (hs.slots _ r hr), fun _ => hfiring⟩

/-- The insertion of a settling: its slot is the one FIRING, and stays so while the insertion walks (R59, R76). -/
theorem fits_of_firing {s : State} {i : Insertion} {r : Reservation} (hr : s.held i.slot = some r)
    (hf : s.firing.map (·.slot) = some i.slot) (hc : i.client = .dispatch)
    (hrun : s.RunLaw → i.windowStart.isSome = r.mode.isWindow ∧ r.belowLimit) : Fits s i where
  timer hs := by
    have hfiring := (hs.firing i.slot).2 hf
    exact ⟨by rw [hr]; rfl, armedAt_of_isFiring hfiring, by simp [hc, hfiring]⟩
  run hs := by
    obtain ⟨hw, hb⟩ := hrun (runShape_iff.1 hs)
    exact ⟨r, hr, hw, hb, fun h => absurd hc h⟩

theorem inFlight_timerShape {s : State} {i : Insertion} (hf : Fits s i) (engine : Engine) (hs : TimerShape s) :
    TimerShape { s with insertion := some i, engine } :=
  ⟨hs.firing, hs.entry, hs.armed, hs.once, fun j hj => by cases hj; exact hf.timer hs⟩

/-- An INSERT of the Line Monitor or of a settling goes in flight (R29). -/
theorem keeps_inFlight {s : State} {i : Insertion} (hf : Fits s i) (hi : s.insertion = none) (hc : armer (some i) = none) :
    Keeps s { s with insertion := some i } :=
  { Keeps.refl s with
    toLawful := lawful_timers_alone (fun _ => rfl) (by rw [hi, hc]; rfl) id (inFlight_timerShape hf s.engine)
      fun hs _ => ⟨hs.slots, hs.firing, fun j hj => by cases hj; exact hf.run hs, hs.waiting⟩ }

/-- The INSERT of an ARM goes in flight, with the engine waiting for its end (R29, R148). -/
theorem keeps_inFlight_arm {s : State} {i : Insertion} {p : PortNo} (hf : Fits s i) (hh : InHand s p)
    (hc : armer (some i) = some p) : Keeps s { s with insertion := some i, engine := .inserting p } :=
  { Keeps.refl s with
    toLawful := lawful_timers (fun _ => rfl) (.inr ⟨p, .inr rfl⟩) (fun _ => hh.requestPort.symm)
      (fun _ q => by rw [hc]; simp) id (inFlight_timerShape hf _)
      fun hs _ => ⟨hs.slots, hs.firing, fun j hj => by cases hj; exact hf.run hs, nofun⟩ }

/-- An armed slot that keeps its mode, with a fire count below the limit. -/
theorem law_armed {r : Reservation} {d : TimeCount} {w : Option TimeCount} (hr : r.Law) (hw : w.isSome = r.mode.isWindow)
    (hb : r.belowLimit) : Reservation.Law { r with run := .armed d w } :=
  ⟨hr.1, by simpa [Run.suits] using hw, hb⟩

theorem place_of_free {s : State} {i : Insertion} (h : s.held i.slot = none) :
    s.place i = { s with queue := placeEntry { slot := i.slot, deadline := i.deadline } s.queue, insertion := none } := by
  have h' : State.held { s with queue := placeEntry { slot := i.slot, deadline := i.deadline } s.queue, insertion := none }
      i.slot = none := h
  simp only [State.place, h']

/-- The entry of an insertion is placed and its slot becomes ARMED, or, for a slot that no law lets an insertion have, the entry is
placed alone; the engine, where the insertion is an ARM's, has its request in hand again. -/
theorem lawful_place {s : State} {i : Insertion} {engine : Engine} (hf : Fits s i) (hc : i.client ≠ .dispatch)
    (he : engine = s.engine ∨ ∃ p, engine = .granted p)
    (hreq : s.EngineLaw → engine.requestPort = s.engine.requestPort)
    (hins : s.EngineLaw → ∀ p, engine ≠ .inserting p) : Lawful s { s.place i with engine } := by
  have he' : engine = s.engine ∨ ∃ p, engine = .granted p ∨ engine = .inserting p := he.imp_right fun ⟨p, h⟩ => ⟨p, .inl h⟩
  have hins' (hs : s.EngineLaw) (p : PortNo) : engine = .inserting p ↔ armer none = some p :=
    ⟨fun h => absurd h (hins hs p), nofun⟩
  have hwait : configureWaits engine = none ∨ configureWaits engine = configureWaits s.engine := by
    obtain rfl | ⟨p, rfl⟩ := he
    · exact .inr rfl
    · exact .inl rfl
  cases hr : s.held i.slot with
  | none =>
    rw [place_of_free hr]
    have hfalse (hs : TimerShape s) : False := by simpa [hr] using (hf.timer hs).1
    exact lawful_timers (fun _ => rfl) he' hreq hins' (sortedLaw_of_placed rfl) (fun hs => (hfalse hs).elim)
      fun _ hs => (hfalse hs).elim
  | some r =>
    rw [State.place_of_held hr]
    have hp : Puts s i.slot (some { r with run := .armed i.deadline i.windowStart })
        { (State.setHeld { s with
            queue := placeEntry { slot := i.slot, deadline := i.deadline } s.queue, insertion := none } i.slot
            { r with run := .armed i.deadline i.windowStart }) with engine } := puts_setHeld s i.slot _
    have hout (hs : TimerShape s) : s.isFiring i.slot = false :=
      Bool.eq_false_iff.2 fun h => hc ((hf.timer hs).2.2.2 h)
    refine lawful_timers (hp.agree hr rfl) he' hreq hins' (sortedLaw_of_placed rfl) (fun hs => ?_) fun hs ht => ?_
    · exact hs.placed hp (hf.timer hs).2.1 rfl (hs.firing_elsewhere (hout hs) rfl) rfl
    · obtain ⟨x, hx, hw, hb, -⟩ := hf.run hs
      cases hr.symm.trans hx
      have hshape : RunShape { s with insertion := none, engine } := by
        refine ⟨hs.slots, hs.firing, nofun, fun mode hm => ?_⟩
        obtain h | h := hwait
        · cases h.symm.trans hm
        · exact hs.waiting mode (h ▸ hm)
      exact hshape.update hp (fun y hy => by cases hy; exact law_armed (hs.slots _ r hr) hw hb)
        (hshape.firing_elsewhere (hout ht) rfl) rfl rfl

theorem generation_place (s : State) (i : Insertion) (n : SlotNo) : ((s.place i).slot n).generation = (s.slot n).generation := by
  unfold State.place; dsimp only; split
  · exact State.generation_setHeld _ i.slot n _
  · rfl

theorem engine_place (s : State) (i : Insertion) : (s.place i).engine = s.engine := by
  unfold State.place; dsimp only; split <;> rfl

theorem keeps_applicationDone (s : State) : Keeps s s.applicationDone := by
  obtain ⟨m, h⟩ := s.applicationDone_frame
  rw [h]; exact keeps_monitor s m

/-- An insertion of the Line Monitor completes (R28). -/
theorem keeps_finishInsert_line {s : State} {i : Insertion} (hf : Fits s i) (hc : i.client = .lineMonitor)
    (hi : s.insertion = none ∨ s.insertion = some i) : Keeps s (s.finishInsert i) := by
  have harmer : armer s.insertion = none := by
    obtain h | h := hi <;> rw [h]
    · rfl
    · simp [armer, hc]
  have hplace : Keeps s (s.place i) := by
    refine ⟨?_, generation_place s i⟩
    have h := lawful_place (engine := s.engine) hf (by simp [hc]) (.inl rfl) (fun _ => rfl) fun hs p he => by
      have := ((engineShape_iff.2 hs).inserting p).1 he
      rw [harmer] at this; cases this
    rw [← engine_place s i] at h; exact h
  have heq : s.finishInsert i = (s.place i).applicationDone := by simp [State.finishInsert, hc]
  rw [heq]; exact hplace.trans (keeps_applicationDone _)

/-- An ARM's insertion completes, and with it the request (R28, R148). -/
theorem keeps_finishInsert_arm {s : State} {i : Insertion} {p : PortNo} {results : List Byte} (hf : Fits s i)
    (hc : i.client = .engine p results) (hreq : s.EngineLaw → s.engine.requestPort = some p) : Keeps s (s.finishInsert i) := by
  have hplace : Keeps s { s.place i with engine := .granted p } :=
    ⟨lawful_place hf (by simp [hc]) (.inr ⟨p, rfl⟩) (fun hs => (hreq hs).symm) nofun, generation_place s i⟩
  have heq : s.finishInsert i = State.complete p .ok results { s.place i with engine := .granted p } := by
    simp only [State.finishInsert, hc]; rfl
  rw [heq]; exact hplace.trans (keeps_complete (.inl rfl) _ _)

/-! ## The firing -/

/-- What is still due of a firing changes (R77). -/
theorem keeps_firing {s : State} {firing : Option FiringRecord} (h : firing.map firingCore = s.firing.map firingCore) :
    Keeps s { s with firing } :=
  { Keeps.refl s with
    timer := timerLaw_of_agree (fun _ => rfl) rfl
      (by simpa only [Option.map_map, Function.comp_def, firingCore] using congrArg (Option.map Prod.fst) h) rfl
    run hs _ := runLaw_of_agree (s := s) (fun _ => rfl) h rfl (.inr rfl) hs }

/-- The slot of the firing leaves FIRING for a run out of the queue, and the firing ends (R59, R76). -/
theorem keeps_leaveFiring {s : State} {n : SlotNo} {r r' : Reservation} (hr : s.held n = some r)
    (hf : s.firing.map (·.slot) = some n) (hi : s.insertion = none) (hb : timerless r' = timerless r)
    (hrun : r'.run.isFiring = false) (harmed : r'.run.armedDeadline = none) (hlaw : s.RunLaw → r'.Law) :
    Keeps s (s.setHeld n r').endFiring := by
  have hp : Puts s n (some r') (s.setHeld n r').endFiring := puts_setHeld s n r'
  refine { toLawful := lawful_timers_alone (hp.agree hr hb) (by rfl) id (fun hs => ?_) fun hs _ => ?_
           generation := fun m => s.generation_setHeld n m r' }
  · have hout := armedAt_of_isFiring ((hs.firing n).2 hf)
    exact hs.quiet hp hrun harmed (hs.filter_queue hout).symm (firing_ended hf rfl) hi
  · exact hs.update hp (fun x hx => by cases hx; exact hlaw (runShape_iff.1 hs)) nofun hi rfl

/-- The end of a firing whose slot is not reserved, which no law lets be (R66). -/
theorem keeps_endFiring_of_free {s : State} {n : SlotNo} (hr : s.held n = none) (hf : s.firing.map (·.slot) = some n) :
    Keeps s s.endFiring := by
  have hfalse (hs : TimerShape s) : False := by
    have := (hs.firing n).2 hf
    rw [isFiring_eq, hr] at this; cases this
  exact { Keeps.refl s with
          toLawful := lawful_timers_alone (fun _ => rfl) rfl id (fun hs => (hfalse hs).elim) fun _ hs => (hfalse hs).elim }

/-- The insertion of a settling completes: its slot becomes ARMED, and the firing ends (R59, R76). -/
theorem keeps_finishInsert_firing {s : State} {i : Insertion} (hf : Fits s i) (hc : i.client = .dispatch)
    (hi : s.insertion = none ∨ s.insertion = some i) : Keeps s (s.finishInsert i) := by
  have harmer : armer s.insertion = none := by
    obtain h | h := hi <;> rw [h]
    · rfl
    · simp [armer, hc]
  have hfiring (hs : TimerShape s) : s.firing.map (·.slot) = some i.slot :=
    (hs.firing i.slot).1 ((hf.timer hs).2.2.1 hc)
  have heq : s.finishInsert i = (s.place i).endFiring := by simp [State.finishInsert, hc]
  refine ⟨?_, fun n => by rw [heq]; exact generation_place s i n⟩
  rw [heq]
  cases hr : s.held i.slot with
  | none =>
    rw [place_of_free hr]
    have hfalse (hs : TimerShape s) : False := by simpa [hr] using (hf.timer hs).1
    exact lawful_timers_alone (fun _ => rfl) harmer.symm (sortedLaw_of_placed rfl) (fun hs => (hfalse hs).elim)
      fun _ hs => (hfalse hs).elim
  | some r =>
    rw [State.place_of_held hr]
    have hp : Puts s i.slot (some { r with run := .armed i.deadline i.windowStart })
        (State.setHeld { s with queue := placeEntry { slot := i.slot, deadline := i.deadline } s.queue, insertion := none }
          i.slot { r with run := .armed i.deadline i.windowStart }).endFiring := puts_setHeld s i.slot _
    refine lawful_timers_alone (hp.agree hr rfl) harmer.symm (sortedLaw_of_placed rfl) (fun hs => ?_) fun hs _ => ?_
    · exact hs.placed hp (hf.timer hs).2.1 rfl (firing_ended (hfiring hs) rfl) rfl
    · obtain ⟨x, hx, hw, hb, -⟩ := hf.run hs
      cases hr.symm.trans hx
      exact hs.update hp (fun y hy => by cases hy; exact law_armed (hs.slots _ r hr) hw hb) nofun rfl rfl

/-- The slot of the queue's head leaves the queue and becomes FIRING (R32, R66). -/
theorem TimerShape.taken {s t : State} (hs : TimerShape s) {e : Entry} {rest : List Entry} {r : Reservation} {w : Option TimeCount}
    (hq : s.queue = e :: rest) (hf : s.firing = none) (hp : Puts s e.slot (some { r with run := .firing e.deadline w }) t)
    (hq' : t.queue = rest) (hf' : t.firing.map (·.slot) = some e.slot) (hi : t.insertion = none) : TimerShape t := by
  have hnodup : e.slot ∉ rest.map (·.slot) ∧ (rest.map (·.slot)).Nodup := by
    have := hs.once; rw [hq, List.map_cons, List.nodup_cons] at this; exact this
  refine ⟨fun m => ?_, fun x hx => ?_, fun m hm => ?_, hq' ▸ hnodup.2, fun j hj => by cases hi.symm.trans hj⟩
  · rw [hf']
    by_cases hm : m = e.slot
    · rw [hm, isFiring_of_held hp.at]; simp [Run.isFiring]
    · have hnone : s.isFiring m = false := Bool.eq_false_iff.2 fun h => by
        have := (hs.firing m).1 h; rw [hf] at this; cases this
      rw [isFiring_eq, hp.of_ne hm, ← isFiring_eq, hnone]
      simpa using fun h : e.slot = m => hm h.symm
  · rw [hq'] at hx
    have hne : x.slot ≠ e.slot := fun h => hnodup.1 (h ▸ List.mem_map_of_mem hx)
    rw [armedAt_eq, hp.of_ne hne, ← armedAt_eq]
    exact hs.entry x (by rw [hq]; exact List.mem_cons_of_mem e hx)
  · have hne : m ≠ e.slot := by rintro rfl; exact hm (armedAt_of_held hp.at)
    rw [armedAt_eq, hp.of_ne hne, ← armedAt_eq] at hm
    obtain ⟨x, hx, rfl⟩ := hs.armed m hm
    rw [hq] at hx
    obtain rfl | hx := List.mem_cons.1 hx
    · exact absurd rfl hne
    · exact ⟨x, hq' ▸ hx, rfl⟩

/-- The head of the queue is ARMED (R26). -/
theorem TimerShape.head_armed {s : State} (hs : TimerShape s) {e : Entry} {rest : List Entry} {r : Reservation}
    (hq : s.queue = e :: rest) (hr : s.held e.slot = some r) : ∃ w, r.run = .armed e.deadline w := by
  have harmed := hs.entry e (by rw [hq]; exact List.mem_cons_self)
  rw [armedAt_of_held hr] at harmed
  cases hrun : r.run with
  | armed d w => rw [hrun] at harmed; cases harmed; exact ⟨w, rfl⟩
  | _ => rw [hrun] at harmed; cases harmed

/-- An ARMED slot becomes FIRING with its fire count and its window start as they are (R32, R66). -/
theorem RunShape.taken {s t : State} (hs : RunShape s) {n : SlotNo} {r : Reservation} {f : FiringRecord} {d d' : TimeCount}
    {w : Option TimeCount} (hr : s.held n = some r) (hrun : r.run = .armed d w)
    (hp : Puts s n (some { r with run := .firing d' w }) t) (hf : t.firing = some f) (hslot : f.slot = n)
    (hfinal : f.final = r.mode.isFinal f.fireCount.toNat) (hi : t.insertion = none)
    (he : configureWaits t.engine = configureWaits s.engine) : RunShape t := by
  refine ⟨fun m x hx => ?_, fun y hy => ?_, fun j hj => (by cases hi.symm.trans hj), fun mode hm => hs.waiting mode (he ▸ hm)⟩
  · by_cases hm : m = n
    · rw [hm] at hx; cases hp.at.symm.trans hx
      obtain ⟨hmode, hsuits, hbelow⟩ := hs.slots _ r hr
      rw [hrun] at hsuits hbelow
      exact ⟨hmode, hsuits, hbelow⟩
    · exact hs.slots m x ((hp.of_ne hm).symm.trans hx)
  · rw [hf] at hy; cases hy
    refine ⟨{ r with run := .firing d' w }, ?_, rfl, hfinal⟩
    rw [show (firingCore f).1 = n from hslot]; exact hp.at

/-- The take of the head: its entry leaves the queue, its slot becomes FIRING, and the firing record names it (R32, R65, R66). -/
theorem keeps_takeHead {s : State} {e : Entry} {rest : List Entry} {r : Reservation} {f : FiringRecord} {w : Option TimeCount}
    (hq : s.queue = e :: rest) (hr : s.held e.slot = some r) (hf : s.firing = none) (hi : s.insertion = none)
    (hslot : f.slot = e.slot) (hfinal : f.final = r.mode.isFinal f.fireCount.toNat)
    (hw : ∀ d w', r.run = .armed d w' → w = w') :
    Keeps s (State.setHeld { s with queue := rest, firing := some f } e.slot { r with run := .firing e.deadline w }) := by
  have hp : Puts s e.slot (some { r with run := .firing e.deadline w })
      (State.setHeld { s with queue := rest, firing := some f } e.slot { r with run := .firing e.deadline w }) :=
    puts_setHeld { s with queue := rest, firing := some f } e.slot _
  refine { toLawful := lawful_timers_alone (hp.agree hr rfl) rfl ?_ (fun hs => ?_) fun hs ht => ?_
           generation := fun m => State.generation_setHeld { s with queue := rest, firing := some f } e.slot m _ }
  · exact sortedLaw_of_sublist (by rw [hq]; exact List.sublist_cons_self e rest)
  · exact hs.taken hq hf hp rfl (congrArg some hslot) hi
  · obtain ⟨w', hrun⟩ := ht.head_armed hq hr
    cases hw _ _ hrun
    exact hs.taken hr hrun hp rfl hslot hfinal hi rfl

end Sys2Proof.Claims
end

section
/-! SUPPORT. The words of the statements, `copies`, `leavesList`, `joinsList` and `freed`, as what the model's operations on deliveries,
binding lists and releases come to. -/

namespace Sys2Proof.Claims

open Sys2Proof.Machine

/-! ## Reading a vector back -/

theorem ports_ofFn {s : State} {f : PortNo → HostPort} (q : PortNo) : State.port { s with ports := Vector.ofFn f } q = f q := by
  simp [State.port]

theorem inputs_ofFn {s : State} {f : LineNo → InputLine} (l : LineNo) : State.input { s with inputs := Vector.ofFn f } l = f l := by
  simp [State.input]

theorem ports_eq_ofFn {v : Vector HostPort 4} {s : State} {f : PortNo → HostPort}
    (h : ∀ q, State.port { s with ports := v } q = f q) : v = Vector.ofFn f := by
  ext i hi : 1
  rw [Vector.getElem_ofFn]; exact h ⟨i, hi⟩

theorem inputs_eq_ofFn {v : Vector InputLine 8} {s : State} {f : LineNo → InputLine}
    (h : ∀ l, State.input { s with inputs := v } l = f l) : v = Vector.ofFn f := by
  ext i hi : 1
  rw [Vector.getElem_ofFn]; exact h ⟨i, hi⟩

theorem setInput_eq (s : State) (l : LineNo) (x : InputLine) :
    s.setInput l x = { s with inputs := Vector.ofFn fun k => if k = l then x else s.input k } := by
  have h : s.inputs.set l x = Vector.ofFn fun k => if k = l then x else s.input k :=
    inputs_eq_ofFn (s := s) fun k => s.input_setInput l k x
  rw [State.setInput, h]

/-- A state whose inputs are read back one by one is itself. -/
theorem with_inputs_self (s : State) : { s with inputs := Vector.ofFn s.input } = s := by
  rw [← inputs_eq_ofFn (v := s.inputs) (s := s) fun _ => rfl]

/-! ## Deliveries -/

theorem port_copies (s : State) (sentTo : PortNo → Bool) (notice : PortNo → Notice) (q : PortNo) :
    (copies s sentTo notice).port q = if sentTo q then (s.port q).arrive s.time (notice q) else s.port q := ports_ofFn q

/-- Two states that differ in their ports alone are equal when each port is. -/
theorem eq_copies {s t : State} {ports : Vector HostPort 4} {sentTo : PortNo → Bool} {notice : PortNo → Notice}
    (ht : t = { s with ports })
    (h : ∀ q, t.port q = if sentTo q then (s.port q).arrive s.time (notice q) else s.port q) : t = copies s sentTo notice := by
  subst ht
  rw [copies, ports_eq_ofFn (s := s) h]

theorem foldl_deliver_eq_copies (s : State) (n : Notice) {ps : List PortNo} (hps : ps.Nodup) :
    ps.foldl (State.deliver n) s = copies s (fun q => decide (q ∈ ps)) fun _ => n := by
  obtain ⟨ports, h⟩ := State.foldl_deliver_frame n ps s
  refine eq_copies h fun q => ?_
  rw [State.port_foldl_deliver n ps hps]; simp only [decide_eq_true_eq]

theorem deliverWatchers_eq_copies (s : State) (n : Notice) (w : Vector Bool 4) :
    s.deliverWatchers n w = copies s (fun q => w[q]) fun _ => { n with watched := true } := by
  obtain ⟨ports, h⟩ := State.deliverWatchers_frame n w s
  exact eq_copies h (State.port_deliverWatchers n w s)

theorem deliver_eq_copies (s : State) (n : Notice) (p : PortNo) :
    s.deliver n p = copies s (fun q => q == p) fun _ => n := by
  refine eq_copies (s := s) rfl fun q => ?_
  rw [State.port_deliver]
  by_cases h : q = p
  · subst h; simp
  · simp [h]

/-- The copies to the owner and the watchers, the owner being none of these (R57, R73). -/
theorem deliverAll_eq_copies (s : State) (n : Notice) {r : Reservation} (hw : r.watchers[r.owner] = false)
    (hn : n.watched = false) : s.deliverAll n r = copies s (hears r) (copyFor r n) := by
  obtain ⟨ports, h⟩ := State.deliverAll_frame n r s
  refine eq_copies h fun q => ?_
  rw [State.port_deliverAll n r s hw]
  by_cases ho : q = r.owner
  · subst ho
    have hcopy : copyFor r n r.owner = n := by cases n; simp only [copyFor, bne_self_eq_false]; cases hn; rfl
    simp [hears, hcopy]
  · simp [hears, ho, copyFor, bne_iff_ne.2 ho]

theorem keeps_copies (s : State) (sentTo : PortNo → Bool) (notice : PortNo → Notice) : Keeps s (copies s sentTo notice) :=
  keeps_ports fun q => by
    rw [show State.port { s with ports := _ } q = _ from port_copies s sentTo notice q]; split
    · exact portStep_arrive ..
    · exact .refl ..

theorem plainNotice_eq (s : State) (kind : NoticeKind) (n : SlotNo) (r : Reservation) (eventTime : TimeCount) :
    Notice.ofSlot kind n (s.slot n).generation r eventTime = plainNotice s kind n r eventTime := rfl

/-! ## Binding lists -/

theorem leavesList_none (s : State) (n : SlotNo) : leavesList s n none = s := by
  simp only [leavesList, Option.isSome_none, Bool.false_eq_true, false_and, if_false, reduceCtorEq]
  exact with_inputs_self s

theorem unbind_eq_leavesList (n : SlotNo) (l : LineNo) (s : State) : s.unbind n l = leavesList s n (some l) := by
  have hinputs : s.setInput l { s.input l with bindings := (s.input l).bindings.filter (· ≠ n) } =
      { s with inputs := Vector.ofFn fun k =>
          if some l = some k then { s.input k with bindings := (s.input k).bindings.filter fun m => m ≠ n } else s.input k } := by
    rw [setInput_eq]
    congr 2 with k : 1
    by_cases hk : k = l
    · subst hk; simp
    · have hk' : some l ≠ some k := fun h => hk (Option.some.inj h).symm
      rw [if_neg hk, if_neg hk']
  unfold State.unbind leavesList
  rw [hinputs]
  dsimp only
  by_cases hh : (s.fifo.head?.map fun rec => rec.line) = some l
  · have hin : (some l).isSome = true ∧ (s.fifo.head?.map fun rec => rec.line) = some l := ⟨rfl, hh⟩
    rw [if_pos hh, if_pos hin]
    cases s.monitor <;> simp
  · rw [if_neg hh, if_neg fun h => hh h.2]

theorem unbindMode_eq_leavesList (n : SlotNo) (m : Mode) (s : State) : s.unbindMode n m = leavesList s n m.line := by
  unfold State.unbindMode
  cases h : m.line with
  | none => exact (leavesList_none s n).symm
  | some l => exact unbind_eq_leavesList n l s

theorem bind_eq_joinsList (n : SlotNo) (l : LineNo) (s : State) : s.bind n l = joinsList s n (some l) := by
  unfold State.bind joinsList
  rw [setInput_eq]
  congr 2 with k : 1
  by_cases hk : k = l
  · subst hk; simp
  · have hk' : some l ≠ some k := fun h => hk (Option.some.inj h).symm
    rw [if_neg hk, if_neg hk']

theorem joinsList_none (s : State) (n : SlotNo) : joinsList s n none = s := by
  simp only [joinsList, reduceCtorEq, if_false]
  exact with_inputs_self s

/-- The bindings of a CONFIGURE in the words of the statements (R41). -/
theorem rebind_eq (n : SlotNo) (old new : Mode) (s : State) :
    s.rebind n old new = if old.line = new.line then s else joinsList (leavesList s n old.line) n new.line := by
  unfold State.rebind
  split
  · rfl
  · rw [unbindMode_eq_leavesList]
    cases h : new.line with
    | none => exact (joinsList_none _ n).symm
    | some l => exact bind_eq_joinsList n l _

theorem bindings_leavesList (s : State) (n : SlotNo) (line : Option LineNo) (l : LineNo) :
    ((leavesList s n line).input l).bindings =
      if line = some l then (s.input l).bindings.filter fun m => m ≠ n else (s.input l).bindings := by
  have h : (leavesList s n line).input l = if line = some l then
      { s.input l with bindings := (s.input l).bindings.filter fun m => m ≠ n } else s.input l := inputs_ofFn (s := leavesList s n line) l
  rw [h]; split <;> rfl

theorem bindings_joinsList (s : State) (n : SlotNo) (line : Option LineNo) (l : LineNo) :
    ((joinsList s n line).input l).bindings =
      if line = some l then (s.input l).bindings ++ [n] else (s.input l).bindings := by
  have h : (joinsList s n line).input l = if line = some l then
      { s.input l with bindings := (s.input l).bindings ++ [n] } else s.input l := inputs_ofFn (s := s) l
  rw [h]; split <;> rfl

/-! ## Release -/

/-- The release of a slot in the words of the statements, with the entries that the model takes out of the queue (R11). -/
theorem release_eq (n : SlotNo) (r : Reservation) (s : State) :
    s.release n r = copies
      { leavesList (s.removeArmed n r) n r.mode.line with
        slots := s.slots.set n { generation := (s.slot n).generation, held := none }
        quotas := s.quotas.set r.owner { s.quota r.owner with owned := (s.quota r.owner).owned - 1 } }
      (fun q => r.watchers[q]) fun _ => { plainNotice s .released n r s.time with watched := true } := by
  obtain ⟨queue, hq⟩ := s.removeArmed_frame n r
  unfold State.release
  dsimp only
  rw [hq, unbindMode_eq_leavesList, deliverWatchers_eq_copies]
  rfl

/-- A slot that is an entry of the queue only when it is ARMED leaves it at its release as in the statements (R26). -/
theorem removeArmed_eq_dequeued {s : State} {n : SlotNo} {r : Reservation} (h : entryOnlyArmed s n r) :
    s.removeArmed n r = dequeued s n := by
  have hkept (hd : r.run.armedDeadline = none) : s = dequeued s n := by
    have hfilter : s.queue.filter (fun e => e.slot ≠ n) = s.queue :=
      List.filter_eq_self.2 fun e he => by simpa using h hd e he
    rw [dequeued, hfilter]
  unfold State.removeArmed
  split
  · rfl
  · next hrun =>
    apply hkept
    cases hr : r.run with
    | armed d w => exact absurd hr (hrun d w)
    | _ => rfl

theorem release_eq_freed {s : State} {n : SlotNo} {r : Reservation} (h : entryOnlyArmed s n r) : s.release n r = freed s n r := by
  rw [release_eq, removeArmed_eq_dequeued h, freed]

end Sys2Proof.Claims
end

section
/-! SUPPORT. The quota table under a change of one slot and under a gift of quota; RESERVE's, RELEASE's and CONFIGURE's change of their slot
keeps every law. -/

namespace Sys2Proof.Claims

open Sys2Proof.Machine

/-! ## Counting slots and quotas -/

/-- A sum over all numbers below `k` whose terms change at one number. -/
theorem sum_finRange_update {k : Nat} {f g : Fin k → Nat} (i : Fin k) (h : ∀ j, j ≠ i → g j = f j) :
    ((List.finRange k).map g).sum + f i = ((List.finRange k).map f).sum + g i := by
  have hsum (u : Fin k → Nat) : ((List.finRange k).map u).sum = u i + (Finset.univ.erase i).sum u :=
    (Fin.sum_univ_def u).symm.trans (Finset.add_sum_erase Finset.univ u (Finset.mem_univ i)).symm
  have hrest : (Finset.univ.erase i).sum g = (Finset.univ.erase i).sum f :=
    Finset.sum_congr rfl fun j hj => h j (Finset.ne_of_mem_erase hj)
  rw [hsum, hsum, hrest]; omega

theorem length_filter_eq_sum {α : Type} (f : α → Bool) (l : List α) : (l.filter f).length = (l.map fun a => (f a).toNat).sum := by
  induction l with
  | nil => rfl
  | cons a l ih => cases h : f a <;> simp [h, ih, Nat.add_comm]

/-- How many slots have a property, when the property changes at one slot. -/
theorem length_filter_update {f g : SlotNo → Bool} (n : SlotNo) (h : ∀ m, m ≠ n → g m = f m) :
    (allSlots.filter g).length + (f n).toNat = (allSlots.filter f).length + (g n).toNat := by
  rw [length_filter_eq_sum, length_filter_eq_sum]
  exact sum_finRange_update (f := fun m => (f m).toNat) (g := fun m => (g m).toNat) n fun m hm => by rw [h m hm]

theorem ownedCount_puts {s t : State} {n : SlotNo} {x : Option Reservation} (hp : Puts s n x t) (q : PortNo) :
    t.ownedCount q + (s.owns q n).toNat = s.ownedCount q + (t.owns q n).toNat :=
  length_filter_update n fun m hm => by rw [owns_eq, owns_eq, hp.of_ne hm]

theorem freeCount_puts {s t : State} {n : SlotNo} {x : Option Reservation} (hp : Puts s n x t) :
    t.freeCount + (s.held n).isNone.toNat = s.freeCount + (t.held n).isNone.toNat :=
  length_filter_update (f := fun m => (s.held m).isNone) (g := fun m => (t.held m).isNone) n fun m hm => by rw [hp.of_ne hm]

/-- `State.QuotaLaw` with both sums over the ports written alike. -/
theorem quotaLaw_iff {s : State} : s.QuotaLaw ↔
    (allPorts.map fun p => (s.quota p).quota).sum = 64 ∧
    (∀ p, (s.quota p).owned ≤ (s.quota p).quota ∧ (s.quota p).owned = s.ownedCount p) ∧
    s.freeCount = (allPorts.map fun p => (s.quota p).quota - (s.quota p).owned).sum := by
  have hsum (f : PortNo → Nat) : (allPorts.map f).sum = f 0 + (f 1 + (f 2 + (f 3 + 0))) := rfl
  simp only [State.QuotaLaw, hsum, Nat.add_assoc, Nat.add_zero]

/-- A FREE slot becomes port `p`'s, and `p`'s owned counts it (R10). -/
theorem quotaLaw_of_reserved {s t : State} {n : SlotNo} {r : Reservation} (hp : Puts s n (some r) t) (hn : s.held n = none)
    (hq : ∀ q, t.quota q = if q = r.owner then { s.quota q with owned := (s.quota q).owned + 1 } else s.quota q)
    (hroom : (s.quota r.owner).owned < (s.quota r.owner).quota) (hs : s.QuotaLaw) : t.QuotaLaw := by
  obtain ⟨htotal, howned, hfree⟩ := quotaLaw_iff.1 hs
  have hquota (q) : (t.quota q).quota = (s.quota q).quota := by rw [hq]; split <;> rfl
  refine quotaLaw_iff.2 ⟨by simpa only [hquota] using htotal, fun q => ?_, ?_⟩
  · have hcount := ownedCount_puts hp q
    rw [owns_eq, owns_eq, hn, hp.at] at hcount
    rw [hq]
    by_cases ho : q = r.owner
    · subst ho; obtain ⟨h1, h2⟩ := howned r.owner; simp at hcount ⊢; omega
    · have ho' : (r.owner == q) = false := beq_eq_false_iff_ne.2 fun h => ho h.symm
      obtain ⟨h1, h2⟩ := howned q; simp [ho, ho'] at hcount ⊢; omega
  · have hcount := freeCount_puts hp
    have hsum : (allPorts.map fun p => (t.quota p).quota - (t.quota p).owned).sum + _ = _ :=
      sum_finRange_update (f := fun p => (s.quota p).quota - (s.quota p).owned) r.owner fun q ho => by rw [hq, if_neg ho]
    rw [hn, hp.at] at hcount
    rw [hq, if_pos rfl] at hsum
    change _ = (allPorts.map fun p => (s.quota p).quota - (s.quota p).owned).sum + _ at hsum
    simp at hcount hsum
    omega

/-- A slot becomes FREE, and its owner's owned counts it no longer (R11). -/
theorem quotaLaw_of_freed {s t : State} {n : SlotNo} {r : Reservation} (hp : Puts s n none t) (hn : s.held n = some r)
    (hq : ∀ q, t.quota q = if q = r.owner then { s.quota q with owned := (s.quota q).owned - 1 } else s.quota q)
    (hs : s.QuotaLaw) : t.QuotaLaw := by
  obtain ⟨htotal, howned, hfree⟩ := quotaLaw_iff.1 hs
  have hquota (q) : (t.quota q).quota = (s.quota q).quota := by rw [hq]; split <;> rfl
  have hown : 1 ≤ (s.quota r.owner).owned := by
    have hcount := ownedCount_puts hp r.owner
    rw [owns_eq, owns_eq, hn, hp.at] at hcount
    have := (howned r.owner).2; simp at hcount; omega
  refine quotaLaw_iff.2 ⟨by simpa only [hquota] using htotal, fun q => ?_, ?_⟩
  · have hcount := ownedCount_puts hp q
    rw [owns_eq, owns_eq, hn, hp.at] at hcount
    rw [hq]
    by_cases ho : q = r.owner
    · subst ho; obtain ⟨h1, h2⟩ := howned r.owner; simp at hcount ⊢; omega
    · have ho' : (r.owner == q) = false := beq_eq_false_iff_ne.2 fun h => ho h.symm
      obtain ⟨h1, h2⟩ := howned q; simp [ho, ho'] at hcount ⊢; omega
  · have hcount := freeCount_puts hp
    have hsum : (allPorts.map fun p => (t.quota p).quota - (t.quota p).owned).sum + _ = _ :=
      sum_finRange_update (f := fun p => (s.quota p).quota - (s.quota p).owned) r.owner fun q ho => by rw [hq, if_neg ho]
    rw [hn, hp.at] at hcount
    rw [hq, if_pos rfl] at hsum
    change _ = (allPorts.map fun p => (s.quota p).quota - (s.quota p).owned).sum + _ at hsum
    have := (howned r.owner).1
    simp at hcount hsum
    omega

/-- Unused quota goes from port `p` to port `d` (R21). -/
theorem quotaLaw_quotaMoved {s : State} {p d : PortNo} {n : Nat} (hd : d ≠ p)
    (hroom : n ≤ (s.quota p).quota - (s.quota p).owned) (hs : s.QuotaLaw) : (quotaMoved s p d n).QuotaLaw := by
  obtain ⟨htotal, howned, hfree⟩ := quotaLaw_iff.1 hs
  have hp : (quotaMoved s p d n).quota p = _ := quota_quotaMoved_giver s hd n
  have hd' : (quotaMoved s p d n).quota d = { s.quota d with quota := (s.quota d).quota + n } := State.quota_setQuota_self ..
  have hother (q) (hqp : q ≠ p) (hqd : q ≠ d) : (quotaMoved s p d n).quota q = s.quota q := by
    rw [quotaMoved, State.quota_setQuota_of_ne _ hqd, State.quota_setQuota_of_ne _ hqp]
  have hsum (f : QuotaEntry → Nat) : (allPorts.map fun q => f ((quotaMoved s p d n).quota q)).sum + f (s.quota p) + f (s.quota d) =
      (allPorts.map fun q => f (s.quota q)).sum + f ((quotaMoved s p d n).quota p) + f ((quotaMoved s p d n).quota d) := by
    let between (q : PortNo) : Nat := if q = p then f ((quotaMoved s p d n).quota p) else f (s.quota q)
    have hfirst : (allPorts.map between).sum + f (s.quota p) = (allPorts.map fun q => f (s.quota q)).sum + between p :=
      sum_finRange_update (f := fun q => f (s.quota q)) (g := between) p fun q hq => if_neg hq
    have hsecond : (allPorts.map fun q => f ((quotaMoved s p d n).quota q)).sum + between d =
        (allPorts.map between).sum + f ((quotaMoved s p d n).quota d) :=
      sum_finRange_update (f := between) (g := fun q => f ((quotaMoved s p d n).quota q)) d fun q hq => by
        by_cases h : q = p
        · simp [between, h]
        · simp [between, h, hother q h hq]
    rw [show between p = f ((quotaMoved s p d n).quota p) from if_pos rfl] at hfirst
    rw [show between d = f (s.quota d) from if_neg hd] at hsecond
    omega
  obtain ⟨hp1, hp2⟩ := howned p
  refine quotaLaw_iff.2 ⟨?_, fun q => ?_, ?_⟩
  · have := hsum (·.quota)
    rw [hp, hd'] at this; dsimp only at this; omega
  · by_cases hqp : q = p
    · subst hqp; rw [hp]; exact ⟨by dsimp only; omega, hp2⟩
    · by_cases hqd : q = d
      · subst hqd; rw [hd']; obtain ⟨h1, h2⟩ := howned q; exact ⟨by dsimp only; omega, h2⟩
      · rw [hother q hqp hqd]; exact howned q
  · have := hsum fun x => x.quota - x.owned
    obtain ⟨hd1, -⟩ := howned d
    rw [hp, hd'] at this; dsimp only at this
    rw [show (quotaMoved s p d n).freeCount = s.freeCount from rfl]; omega

theorem keeps_quotaMoved {s : State} {p d : PortNo} {n : Nat} (hd : d ≠ p)
    (hroom : n ≤ (s.quota p).quota - (s.quota p).owned) : Keeps s (quotaMoved s p d n) :=
  { Keeps.refl s with
    quota := quotaLaw_quotaMoved hd hroom }

/-! ## RESERVE -/

theorem fresh_law (p : PortNo) : (Reservation.fresh p).Law := ⟨rfl, rfl, trivial⟩

/-- RESERVE's change keeps the laws: a FREE slot was neither queued nor bound, and its new holder is OPEN (R10). -/
theorem lawful_slotTaken {s : State} {p : PortNo} {n : SlotNo} (hn : s.held n = none) (hi : s.insertion = none)
    (hroom : (s.quota p).owned < (s.quota p).quota) (hopen : s.DetachedLaw → (s.port p).session = .opened) :
    Lawful s (slotTaken s p n) := by
  have hp : Puts s n (some (Reservation.fresh p)) (slotTaken s p n) := puts_setSlot s n _
  have hfiring : s.isFiring n = false := by rw [isFiring_eq, hn]; rfl
  have harmed : s.armedAt n = none := by rw [armedAt_eq, hn]; rfl
  refine { Lawful.refl s with
    timer := fun hs => ?_, run := fun hs _ => ?_, output := fun hs => ?_, binding := fun hs l => ?_
    quota := quotaLaw_of_reserved hp hn (fun q => ?_) hroom, watcher := fun hs => ?_, detached := fun hs => ?_ }
  · have hs := timerShape_iff.2 hs
    exact timerShape_iff.1
      (hs.quiet hp rfl rfl (hs.filter_queue harmed).symm (hs.firing_elsewhere hfiring rfl) hi)
  · have hs := runShape_iff.2 hs
    exact runShape_iff.1 (hs.update hp (fun r hr => by cases hr; exact fresh_law p) (hs.firing_elsewhere hfiring rfl) hi rfl)
  · rw [slotTaken, State.quota_setQuota]
    by_cases h : q = p
    · subst h; simp [Reservation.fresh]
    · simp [Reservation.fresh, h]
  · obtain ⟨hslots, hfree⟩ := outputLaw_iff.1 hs
    refine outputLaw_iff.2 ⟨fun m r a hr ha => ?_, hfree⟩
    by_cases hm : m = n
    · rw [hm] at hr; cases hp.at.symm.trans hr; cases ha
    · exact hslots m r a (hp.of_ne hm ▸ hr) ha
  · obtain ⟨hlen, hnodup, hmem⟩ := hs l
    refine ⟨hlen, hnodup, fun m => (hmem m).trans ?_⟩
    by_cases hm : m = n
    · rw [hm, hn, hp.at]; simp [Reservation.fresh, Mode.line]
    · rw [hp.of_ne hm]
  · obtain ⟨hslots, hwait⟩ := watcherLaw_iff.1 hs
    refine watcherLaw_iff.2 ⟨fun m r hr => ?_, fun q m hw => ?_⟩
    · by_cases hm : m = n
      · rw [hm] at hr; cases hp.at.symm.trans hr; exact ⟨by simp [Reservation.fresh, noWatchers], fun _ => rfl⟩
      · exact hslots m r (hp.of_ne hm ▸ hr)
    · obtain ⟨r, hr, h⟩ := hwait q m hw
      have hm : m ≠ n := by rintro rfl; cases hn.symm.trans hr
      exact ⟨r, (hp.of_ne hm).trans hr, h⟩
  · obtain ⟨hempty, hwait, hteardown⟩ := detachedLaw_iff.1 hs
    refine detachedLaw_iff.2 ⟨fun q hq => ?_, hwait, hteardown⟩
    obtain ⟨hslots, hlines, hauth⟩ := hempty q hq
    refine ⟨fun m => ?_, hlines, hauth⟩
    by_cases hm : m = n
    · have hne : p ≠ q := by
        rintro rfl
        have := hopen hs
        rw [show (s.port p).session = .detached from hq] at this; cases this
      rw [owns_eq, watches_eq, hm, hp.at]
      simp [Reservation.fresh, noWatchers, hne]
    · rw [owns_eq, watches_eq, hp.of_ne hm, ← owns_eq, ← watches_eq]; exact hslots m

/-! ## RELEASE -/

theorem Puts.of_freed {s t : State} {n m : SlotNo} {x : Reservation} (hp : Puts s n none t) (hx : t.held m = some x) :
    m ≠ n ∧ s.held m = some x := by
  have hm : m ≠ n := by rintro rfl; cases hp.at.symm.trans hx
  exact ⟨hm, (hp.of_ne hm).symm.trans hx⟩

theorem outputLaw_of_freed {s t : State} {n : SlotNo} (hp : Puts s n none t) (ho : t.outputs = s.outputs) (hs : s.OutputLaw) :
    t.OutputLaw := by
  have hout (l) : t.output l = s.output l := congrArg (·[l]) ho
  obtain ⟨hslots, hfree⟩ := outputLaw_iff.1 hs
  refine outputLaw_iff.2 ⟨fun m x a hx ha => ?_, fun l => by rw [hout]; exact hfree l⟩
  rw [hout]; exact hslots m x a (hp.of_freed hx).2 ha

/-- A slot becomes FREE and leaves the queue, its binding list and its owner's count together. -/
theorem lawful_slotFreed {s : State} {slots : Vector Slot 64} {quotas : Vector QuotaEntry 4} {queue : List Entry}
    {inputs : Vector InputLine 8} {monitor : MonitorPhase} {n : SlotNo} {r : Reservation} (hr : s.held n = some r)
    (hfiring : s.isFiring n = false) (hi : s.insertion = none) (hw : watchWaits s.engine = none)
    (hp : Puts s n none { s with slots, quotas, queue, inputs, monitor }) (hsub : queue.Sublist s.queue)
    (hq : TimerShape s → queue = s.queue.filter fun e => e.slot ≠ n)
    (hquota : ∀ q, State.quota { s with quotas } q =
      if q = r.owner then { s.quota q with owned := (s.quota q).owned - 1 } else s.quota q)
    (hb : ∀ l, (State.input { s with inputs } l).bindings =
      if r.mode.line = some l then (s.input l).bindings.filter fun m => m ≠ n else (s.input l).bindings) :
    Lawful s { s with slots, quotas, queue, inputs, monitor } := by
  refine { Lawful.refl s with
    sorted := sortedLaw_of_sublist hsub
    timer := fun hs => ?_, run := fun hs _ => ?_, output := fun hs => ?_, binding := fun hs l => ?_
    quota := quotaLaw_of_freed hp hr hquota, watcher := fun hs => ?_, detached := fun hs => ?_ }
  · have hs := timerShape_iff.2 hs
    exact timerShape_iff.1 (hs.quiet hp rfl rfl (hq hs) (hs.firing_elsewhere hfiring rfl) hi)
  · have hs := runShape_iff.2 hs
    exact runShape_iff.1 (hs.update hp (fun _ h => absurd h (by simp)) (hs.firing_elsewhere hfiring rfl) hi rfl)
  · exact outputLaw_of_freed hp rfl hs
  · obtain ⟨hlen, hnodup, hmem⟩ := hs l
    have hbl : (State.input { s with slots, quotas, queue, inputs, monitor } l).bindings = _ := hb l
    rw [hbl]
    refine ⟨?_, ?_, fun m => ?_⟩
    · split
      · exact (List.length_filter_le ..).trans hlen
      · exact hlen
    · split
      · exact hnodup.filter _
      · exact hnodup
    · by_cases hm : m = n
      · have hout : ¬∃ x ∈ (none : Option Reservation), x.mode.line = some l := by simp
        rw [hm, hp.at, iff_false_right hout]
        split
        · simp
        · next hl => rw [hmem, hr]; simpa using hl
      · rw [hp.of_ne hm, ← hmem]; split <;> simp [hm]
  · obtain ⟨hslots, -⟩ := watcherLaw_iff.1 hs
    refine watcherLaw_iff.2 ⟨fun m x hx => ?_, fun q m h => by cases hw.symm.trans h⟩
    exact hslots m x (hp.of_freed hx).2
  · obtain ⟨hempty, hwait, hteardown⟩ := detachedLaw_iff.1 hs
    refine detachedLaw_iff.2 ⟨fun q hq => ?_, hwait, hteardown⟩
    obtain ⟨hslots, hlines, hauth⟩ := hempty q hq
    refine ⟨fun m => ?_, hlines, hauth⟩
    by_cases hm : m = n
    · rw [owns_eq, watches_eq, hm, hp.at]; simp
    · rw [owns_eq, watches_eq, hp.of_ne hm, ← owns_eq, ← watches_eq]; exact hslots m

theorem removeArmed_sublist (n : SlotNo) (r : Reservation) (s : State) : (s.removeArmed n r).queue.Sublist s.queue := by
  unfold State.removeArmed; split
  · exact List.filter_sublist
  · exact List.Sublist.refl _

/-- Under the law of the queue a slot that is not ARMED has no entry (R26). -/
theorem TimerShape.entryOnlyArmed {s : State} (hs : TimerShape s) {n : SlotNo} {r : Reservation} (hr : s.held n = some r) :
    entryOnlyArmed s n r := fun hd e he hn => by
  have := hs.entry e he
  rw [hn, armedAt_of_held hr, hd] at this; cases this

/-- A release keeps the laws (R11). -/
theorem keeps_release {s : State} {n : SlotNo} {r : Reservation} (hr : s.held n = some r) (hfiring : s.isFiring n = false)
    (hi : s.insertion = none) (hw : watchWaits s.engine = none) : Keeps s (s.release n r) :=
  { Keeps.refl s with
    generation m := by
      rw [State.slot_release]; split
      · next h => rw [h]
      · rfl
    toLawful := by
      obtain ⟨queue, hq⟩ := s.removeArmed_frame n r
      have hqueue : queue = (s.removeArmed n r).queue := by rw [hq]
      rw [release_eq, hq]
      refine Lawful.trans ?_ (keeps_copies _ _ _).toLawful
      refine lawful_slotFreed hr hfiring hi hw (puts_setSlot s n _) (hqueue ▸ removeArmed_sublist n r s) (fun hs => ?_)
        (fun q => ?_) (bindings_leavesList { s with queue } n r.mode.line)
      · rw [show (leavesList { s with queue } n r.mode.line).queue = queue from rfl, hqueue,
          removeArmed_eq_dequeued (hs.entryOnlyArmed hr), dequeued]
      · refine (State.quota_setQuota s r.owner q _).trans ?_
        split
        · next h => subst h; rfl
        · rfl }

end Sys2Proof.Claims
end

section
/-! SUPPORT. CONFIGURE's change of its slot, the grant of a request, the first and the last operation of a teardown, and device reset, as
the laws see them. -/

namespace Sys2Proof.Claims

open Sys2Proof.Machine

/-! ## CONFIGURE -/

/-- The binding lists after a CONFIGURE (R41). -/
theorem bindings_rebind (s : State) (n : SlotNo) (old new : Mode) (l : LineNo) :
    ((s.rebind n old new).input l).bindings =
      if old.line = new.line then (s.input l).bindings
      else if new.line = some l then (s.input l).bindings.filter (fun m => old.line ≠ some l ∨ m ≠ n) ++ [n]
      else (s.input l).bindings.filter fun m => old.line ≠ some l ∨ m ≠ n := by
  rw [rebind_eq]
  split
  · rfl
  · rw [bindings_joinsList, bindings_leavesList]
    by_cases ho : old.line = some l <;> simp [ho]

/-- The new binding keeps the lists within eight slots, each once, and in agreement with the modes (R39, R40). -/
theorem bindingLaw_configured {s t : State} {n : SlotNo} {r r' : Reservation} (hr : s.held n = some r) (hp : Puts s n (some r') t)
    (hfull : s.bindingFull n r'.mode = false) (hb : ∀ l, (t.input l).bindings = ((s.rebind n r.mode r'.mode).input l).bindings)
    (hs : s.BindingLaw) : t.BindingLaw := by
  by_cases hline : r.mode.line = r'.mode.line
  · refine bindingLaw_of_agree (hp.agree hr hline.symm) (fun l => ?_) hs
    rw [hb, bindings_rebind, if_pos hline]
  intro l
  obtain ⟨hlen, hnodup, hmem⟩ := hs l
  have hin : n ∈ (s.input l).bindings ↔ r.mode.line = some l := by rw [hmem, hr]; simp
  have hmem' (m) (hm : m ≠ n) : (∃ x, t.held m = some x ∧ x.mode.line = some l) ↔ m ∈ (s.input l).bindings := by
    rw [hp.of_ne hm, hmem]; rfl
  have hat : (∃ x, t.held n = some x ∧ x.mode.line = some l) ↔ r'.mode.line = some l := by rw [hp.at]; simp
  simp only [Option.mem_def]
  rw [hb, bindings_rebind, if_neg hline]
  by_cases hnew : r'.mode.line = some l
  · have hold : r.mode.line ≠ some l := fun h => hline (h.trans hnew.symm)
    have hroom : (s.input l).bindings.length < 8 := by
      have hout : n ∉ (s.input l).bindings := fun h => hold (hin.1 h)
      have : decide (Config.bindingMax ≤ (s.input l).bindings.length) = false := by
        simpa [State.bindingFull, hnew, hout] using hfull
      exact Nat.not_le.1 (of_decide_eq_false this)
    simp only [hnew, hold, ne_eq, not_false_eq_true, true_or, decide_true, List.filter_true, if_true]
    refine ⟨by simp; omega, ?_, fun m => ?_⟩
    · exact List.nodup_append.2 ⟨hnodup, List.nodup_singleton n, fun a ha b hb => by
        rintro rfl; exact hold (hin.1 (List.mem_singleton.1 hb ▸ ha))⟩
    · by_cases hm : m = n
      · subst hm; simp [hat, hnew]
      · simp [hmem' m hm, hm]
  · rw [if_neg hnew]
    refine ⟨(List.length_filter_le ..).trans hlen, hnodup.filter _, fun m => ?_⟩
    by_cases hm : m = n
    · subst hm; simp only [List.mem_filter, hin, hat, iff_false_right hnew]; simp
    · simp [hmem' m hm, hm]

theorem outputLaw_configured {s t : State} {n : SlotNo} {r r' : Reservation} (hp : Puts s n (some r') t)
    (hclaim : s.actionClaimed r.owner r'.action = true) (ho : r'.owner = r.owner) (hout : t.outputs = s.outputs) (hs : s.OutputLaw) :
    t.OutputLaw := by
  have hout (l) : t.output l = s.output l := congrArg (·[l]) hout
  obtain ⟨hslots, hfree⟩ := outputLaw_iff.1 hs
  refine outputLaw_iff.2 ⟨fun m x a hx ha => ?_, fun l => by rw [hout]; exact hfree l⟩
  rw [hout]
  by_cases hm : m = n
  · rw [hm] at hx; cases hp.at.symm.trans hx
    rw [ho]; simpa [State.actionClaimed, ha] using hclaim
  · exact hslots m x a ((hp.of_ne hm).symm.trans hx) ha

/-- CONFIGURE's change of an IDLE slot, past its checks (R40, R41). -/
theorem keeps_configured {s : State} {n : SlotNo} {r : Reservation} {mode : Mode} {tag : Word} {action : Option OutputAction}
    (hr : s.held n = some r) (hidle : r.run = .idle) (hi : s.insertion = none) (hmode : s.RunLaw → mode.inRange = true)
    (haction : s.actionClaimed r.owner action = true) (hfull : s.bindingFull n mode = false) :
    Keeps s ((s.rebind n r.mode mode).setHeld n { r with mode, tag, action }) := by
  obtain ⟨inputs, monitor, hs'⟩ := s.rebind_frame n r.mode mode
  have hp : Puts s n (some { r with mode, tag, action }) ((s.rebind n r.mode mode).setHeld n { r with mode, tag, action }) := by
    rw [hs']; exact puts_setHeld s n _
  have hb (l) : (((s.rebind n r.mode mode).setHeld n { r with mode, tag, action }).input l).bindings =
    ((s.rebind n r.mode mode).input l).bindings := rfl
  have hbinding := bindingLaw_configured hr hp hfull hb
  rw [hs'] at hp hbinding ⊢
  have hfiring : s.isFiring n = false := by rw [isFiring_of_held hr, hidle]; rfl
  exact { Keeps.refl s with
    binding := hbinding
    timer := timerLaw_of_agree (hp.agree hr rfl) rfl rfl rfl
    run := fun hs _ => runShape_iff.1 ((runShape_iff.2 hs).update hp
      (fun x hx => by cases hx; exact ⟨hmode hs, by rw [hidle]; rfl, by rw [hidle]; trivial⟩)
      ((runShape_iff.2 hs).firing_elsewhere hfiring rfl) hi rfl)
    quota := quotaLaw_of_agree (hp.agree hr rfl) rfl
    output := outputLaw_configured hp haction rfl rfl
    watcher := watcherLaw_of_agree (hp.agree hr rfl) (.inr rfl)
    detached := fun hs => by
      obtain ⟨hempty, hwait, hteardown⟩ := detachedLaw_iff.1 hs
      exact detachedLaw_iff.2 ⟨fun q hq => emptyHanded_of_agree (hp.agree hr rfl) rfl rfl (hempty q hq), hwait, hteardown⟩
    generation := fun m => State.generation_setHeld { s with inputs, monitor } n m _ }

/-! ## Grants and teardowns -/

theorem setPort_setPort (s : State) (p : PortNo) (x y : HostPort) : (s.setPort p x).setPort p y = s.setPort p y := by
  simp [State.setPort, Vector.set_set]

/-- Port `p` and the engine change together: the engine takes a work in hand for the port or leaves it, and no insertion of an ARM. -/
theorem keeps_handOver {s : State} {p : PortNo} {x : HostPort} {engine : Engine} (pointer : PortNo)
    (hpins : x.prstn = (s.port p).prstn ∧ x.link = (s.port p).link) (hwait : waitingPort engine = none)
    (hdetached : x.session = .detached → s.DetachedLaw → EmptyHanded s p)
    (hclosing : ∀ q close released lines on, engine = .teardown q close released lines on → q = p ∧ x.session = .closing)
    (hexec : s.EngineLaw → s.ClosingLaw → (x.request.isExecuting = true ↔ engine.requestPort = some p))
    (hother : ∀ q, q ≠ p → (engine.requestPort = some q ↔ s.engine.requestPort = some q))
    (hins : ∀ q, engine ≠ .inserting q ∧ s.engine ≠ .inserting q) (hreq : s.EngineLaw → s.ClosingLaw → x.RequestLaw) :
    Keeps s { s.setPort p x with engine, pointer } := by
  have hport (q) : State.port { s.setPort p x with engine, pointer } q = if q = p then x else s.port q := s.port_setPort p q x
  have hclosing' : State.ClosingLaw { s.setPort p x with engine, pointer } := by
    unfold State.ClosingLaw
    split
    · next q close released lines on he =>
      obtain ⟨rfl, hx⟩ := hclosing q close released lines on he
      rw [hport, if_pos rfl]; exact hx
    · trivial
  refine { Keeps.refl s with
    run := fun hs _ => runLaw_of_agree (s := s) (fun _ => rfl) rfl rfl (.inl ?_) hs
    watcher := fun hs => watcherLaw_of_agree (s := s) (fun _ => rfl) (.inl ?_) hs
    detached := fun hs => ?_, engine := fun hs hc => ?_, closing := fun _ => hclosing', link := fun hs q => ?_ }
  · cases engine <;> first | rfl | cases hwait
  · cases engine <;> first | rfl | cases hwait
  · obtain ⟨hempty, -, -⟩ := detachedLaw_iff.1 hs
    refine detachedLaw_iff.2 ⟨fun q hq => ?_, fun q hq => absurd (hwait.symm.trans hq) nofun, hclosing'⟩
    rw [hport] at hq
    split at hq
    · next h => subst h; exact hdetached hq hs
    · exact hempty q hq
  · obtain ⟨executing, inserting, ports⟩ := engineShape_iff.2 hs
    refine engineShape_iff.1 ⟨fun q => ?_, fun q => ?_, fun q => ?_⟩
    · rw [hport]; split
      · next h => subst h; exact hexec hs hc
      · next h => exact (executing q).trans (hother q h).symm
    · exact Iff.trans (iff_of_false (hins q).1 (hins q).2) (inserting q)
    · rw [hport]; split
      · exact hreq hs hc
      · exact ports q
  · rw [hport]; split
    · next h => subst h; rw [hpins.1, hpins.2]; exact hs q
    · exact hs q

/-- The engine is granted port `p`'s QUEUED request, which becomes EXECUTING (R146). -/
theorem keeps_granted {s : State} {p : PortNo} {f : Frame} (pointer : PortNo) (hfree : s.engine = .free)
    (hf : (s.port p).request = .queued f) :
    Keeps s { s.setPort p { s.port p with request := .executing f } with engine := .granted p, pointer } := by
  refine keeps_handOver pointer ⟨rfl, rfl⟩ rfl (fun h hs => (detachedLaw_iff.1 hs).1 p h) nofun (fun _ _ => iff_of_true rfl rfl)
    (fun q hq => ?_) (fun q => ⟨nofun, by rw [hfree]; nofun⟩) (fun hs _ => ?_)
  · rw [hfree]; simp [Engine.requestPort, Ne.symm hq]
  · obtain ⟨hpending, -, hfetch⟩ := (engineShape_iff.2 hs).ports p
    refine ⟨fun h => ?_, fun _ => rfl, fun reply h => ?_⟩
    · have := (hpending h).2; rw [hf] at this; cases this
    · have := hfetch reply h; rw [hf] at this; cases this

/-- The first operation of the teardown inside a CLOSE that the engine has in hand (R139, R163, R164). -/
theorem keeps_beginTeardown_close {s : State} {p : PortNo} (h : s.engine = .granted p) : Keeps s (s.beginTeardown p true) := by
  refine keeps_handOver s.pointer ⟨rfl, rfl⟩ rfl nofun (fun q _ _ _ _ he => by cases he; exact ⟨rfl, rfl⟩) (fun hs _ => ?_)
    (fun q _ => by rw [h]; rfl) (fun q => ⟨nofun, by rw [h]; nofun⟩) (fun hs _ => ?_)
  · have := (engineShape_iff.2 hs).executing p
    rw [h] at this; exact this
  · obtain ⟨hexec, -, hports⟩ := engineShape_iff.2 hs
    obtain ⟨hpending, hmark, hfetch⟩ := hports p
    have hexec : (s.port p).request.isExecuting = true := (hexec p).2 (by rw [h]; rfl)
    refine ⟨fun hp => ?_, hmark, hfetch⟩
    have := (RequestLaw.executing (hports p) hexec).1
    exact absurd (this.symm.trans hp) nofun

/-- The first operation of a teardown that the arbiter grants (R139, R146, R164). -/
theorem keeps_beginTeardown_pending {s : State} {p : PortNo} (pointer : PortNo) (hfree : s.engine = .free) :
    Keeps s (State.beginTeardown p false { s.setPort p { s.port p with teardownPending := false } with pointer }) := by
  have hport : State.port { s.setPort p { s.port p with teardownPending := false } with pointer } p =
    { s.port p with teardownPending := false } := s.port_setPort_self p _
  have heq : State.beginTeardown p false { s.setPort p { s.port p with teardownPending := false } with pointer } =
      { s.setPort p (HostPort.drive { s.port p with
          teardownPending := false, session := .closing, notices := [], holdoffCounter := 0 }) with
        engine := .teardown p false 0 0 none, pointer } := by
    rw [State.beginTeardown, hport]
    exact congrArg (fun t => { t with engine := Engine.teardown p false 0 0 none, pointer : State }) (setPort_setPort s p _ _)
  rw [heq]
  refine keeps_handOver pointer ⟨rfl, rfl⟩ rfl nofun (fun q _ _ _ _ he => by cases he; exact ⟨rfl, rfl⟩) (fun hs _ => ?_)
    (fun q _ => by rw [hfree]; rfl) (fun q => ⟨nofun, by rw [hfree]; nofun⟩) (fun hs _ => ?_)
  · have := (engineShape_iff.2 hs).executing p
    rw [hfree] at this; exact this
  · obtain ⟨-, hmark, hfetch⟩ := (engineShape_iff.2 hs).ports p
    exact ⟨nofun, hmark, hfetch⟩

/-- The port that a teardown's last operation leaves: DETACHED, with the answer of a CLOSE (R144, R147, R163, R164). -/
def detachedPort (x : HostPort) (close : Bool) (results : List Byte) : HostPort :=
  let y := HostPort.drive { x with session := .detached }
  if close then
    if x.resetMark then { y with request := .idle, resetMark := false, teardownPending := x.teardownPending }
    else { y with request := .done { code := match x.request with | .executing f => f.code | _ => 0, status := .ok, results } }
  else y

theorem endTeardown_eq (s : State) (p : PortNo) (close : Bool) (released lines : Nat) :
    s.endTeardown p close released lines =
      { s.setPort p (detachedPort (s.port p) close
          [(s.port p).sessionNumber, BitVec.ofNat 8 released, BitVec.ofNat 8 lines]) with engine := .free } := by
  unfold State.endTeardown
  cases close
  · rfl
  · simp only [if_true, State.complete, State.port_setPort_self, setPort_setPort]
    have hd : (Session.detached == Session.opened) = false := rfl
    cases hm : (s.port p).resetMark
    · simp [detachedPort, hm] <;> rfl
    · simp [detachedPort, hm, hd]

/-- The last operation of a teardown, whose port holds nothing any more (R160, R163, R164). -/
theorem keeps_endTeardown {s : State} {p : PortNo} {close : Bool} {released lines : Nat} {on : Option WaitFor}
    (h : s.engine = .teardown p close released lines on) (hempty : EmptyHanded s p) :
    Keeps s (s.endTeardown p close released lines) := by
  rw [endTeardown_eq]
  refine keeps_handOver s.pointer ?_ rfl (fun _ _ => hempty) nofun (fun hs _ => ?_) (fun q hq => ?_)
    (fun q => ⟨nofun, by rw [h]; nofun⟩) (fun hs hc => ?_)
  · unfold detachedPort; cases close <;> cases (s.port p).resetMark <;> exact ⟨rfl, rfl⟩
  · have hexec := (engineShape_iff.2 hs).executing p
    rw [h] at hexec
    unfold detachedPort; cases close
    · exact hexec
    · cases (s.port p).resetMark <;> exact iff_of_false nofun nofun
  · rw [h]; cases close <;> simp [Engine.requestPort, Ne.symm hq]
  · obtain ⟨hexec, -, hports⟩ := engineShape_iff.2 hs
    obtain ⟨hpending, hmark, hfetch⟩ := hports p
    have hclosing : (s.port p).session = .closing := by unfold State.ClosingLaw at hc; rw [h] at hc; exact hc
    have hpend (hp : (s.port p).teardownPending = true) : False := by
      rw [(hpending hp).1] at hclosing; cases hclosing
    unfold detachedPort; cases close
    · exact ⟨fun hp => (hpend hp).elim, hmark, hfetch⟩
    · have hexec : (s.port p).request.isExecuting = true := (hexec p).2 (by rw [h]; rfl)
      have hlink := (RequestLaw.executing (hports p) hexec).2
      cases hm : (s.port p).resetMark
      · exact ⟨fun hp => (hpend hp).elim, fun hx => (Bool.false_ne_true hx).elim, fun reply hl => absurd hl (hlink reply)⟩
      · exact ⟨fun hp => (hpend hp).elim, nofun, fun reply hl => absurd hl (hlink reply)⟩

end Sys2Proof.Claims
end

section
/-! SUPPORT. The Timebase Unit, the input lines and the edge FIFO, and the link transactions, as the laws see them. -/

namespace Sys2Proof.Claims

open Sys2Proof.Machine

/-! ## The arithmetic of a slew -/

/-- While ticks remain a slew has something left to apply (R95, R96). -/
theorem slew_remaining_pos {r : Slew} (h : r.Law) : 1 ≤ r.remaining.natAbs := by
  obtain ⟨hne, -, hticks, hspan, -, -, -, -, hbalance⟩ := h
  by_contra hzero
  have hrem : r.remaining.natAbs = 0 := by omega
  have hpos : 0 < r.amount.natAbs := by omega
  rw [hrem, Nat.sub_zero, Nat.mul_comm] at hbalance
  have : (r.span - r.ticksRemaining) * r.amount.natAbs < r.span * r.amount.natAbs :=
    Nat.mul_lt_mul_of_pos_right (by omega) hpos
  omega

/-- The balance of R96 with every difference written as a sum: `k` corrections made in `d` ticks. -/
theorem slew_balance {r : Slew} (h : r.Law) :
    r.amount.natAbs * r.span + r.accumulator + r.ticksRemaining * r.amount.natAbs =
      r.span * r.amount.natAbs + r.remaining.natAbs * r.span := by
  obtain ⟨-, -, -, hspan, -, hrem, -, -, hbalance⟩ := h
  zify [hspan, hrem] at hbalance ⊢
  linarith

/-- A tick that corrects by a whole unit leaves a slew lawful (R96). -/
theorem slew_corrected {r : Slew} (h : r.Law) (hticks : 1 < r.ticksRemaining) {remaining : Int}
    (habs : remaining.natAbs + 1 = r.remaining.natAbs) (hsign : 0 ≤ remaining * r.amount)
    (hsum : r.span ≤ r.accumulator + r.amount.natAbs) :
    Slew.Law { r with ticksRemaining := r.ticksRemaining - 1, accumulator := r.accumulator + r.amount.natAbs - r.span, remaining } := by
  have hbalance := slew_balance h
  obtain ⟨hne, hamount, -, hspan, hacc, hrem, hleft, -, -⟩ := h
  refine ⟨hne, hamount, ?_, ?_, ?_, ?_, ?_, hsign, ?_⟩ <;> dsimp only <;> try omega
  rw [← habs] at hbalance hrem
  zify [hsum, show r.ticksRemaining - 1 ≤ r.span by omega, show 1 ≤ r.ticksRemaining by omega,
    show remaining.natAbs ≤ r.amount.natAbs by omega] at hbalance ⊢
  linarith

/-- A tick that corrects nothing leaves a slew lawful (R96). -/
theorem slew_counted {r : Slew} (h : r.Law) (hticks : 1 < r.ticksRemaining)
    (hsum : r.accumulator + r.amount.natAbs < r.span) :
    Slew.Law { r with ticksRemaining := r.ticksRemaining - 1, accumulator := r.accumulator + r.amount.natAbs } := by
  have hbalance := slew_balance h
  obtain ⟨hne, hamount, -, hspan, -, hrem, hleft, hsign, -⟩ := h
  have hroom : r.remaining.natAbs ≠ r.ticksRemaining := fun heq => by
    rw [heq] at hbalance
    have hprod : r.ticksRemaining * r.amount.natAbs + r.accumulator = r.ticksRemaining * r.span := by
      rw [Nat.mul_comm r.amount.natAbs] at hbalance; omega
    have hstep : r.ticksRemaining * (r.amount.natAbs + r.accumulator + 1) ≤ r.ticksRemaining * r.span :=
      Nat.mul_le_mul_left _ (by omega)
    have hacc : 1 * r.accumulator ≤ r.ticksRemaining * r.accumulator := Nat.mul_le_mul_right _ (by omega)
    rw [Nat.mul_add, Nat.mul_add] at hstep
    omega
  refine ⟨hne, hamount, ?_, ?_, hsum, hrem, ?_, hsign, ?_⟩ <;> dsimp only <;> try omega
  zify [show r.ticksRemaining - 1 ≤ r.span by omega, show 1 ≤ r.ticksRemaining by omega, hrem] at hbalance ⊢
  linarith

/-- One tick of a slew that has more than this tick left (R96). -/
theorem slew_tick {r : Slew} (h : r.Law) (hticks : 1 < r.ticksRemaining) : r.tick.1.Law := by
  have hpos := slew_remaining_pos h
  have hsign : 0 ≤ r.remaining * r.amount := by obtain ⟨-, -, -, -, -, -, -, hsign, -⟩ := h; exact hsign
  have hne : r.amount ≠ 0 := h.1
  unfold Slew.tick
  dsimp only
  split
  · next hsum =>
    split
    · next ha =>
      have hrem : 0 < r.remaining := by
        have : 0 ≤ r.remaining := nonneg_of_mul_nonneg_left hsign ha
        omega
      exact slew_corrected h hticks (by omega) (Int.mul_nonneg (by omega) (by omega)) hsum
    · next ha =>
      have hrem : r.remaining < 0 := by
        have hneg : r.amount < 0 := by omega
        have : r.remaining ≤ 0 := nonpos_of_mul_nonneg_left hsign hneg
        omega
      exact slew_corrected h hticks (by omega) (Int.mul_nonneg_of_nonpos_of_nonpos (by omega) (by omega)) hsum
  · next hsum => exact slew_counted h hticks (by omega)

theorem slew_tick_ticksRemaining (r : Slew) : r.tick.1.ticksRemaining = r.ticksRemaining - 1 := by
  unfold Slew.tick; dsimp only; split
  · split <;> rfl
  · rfl

/-! ## The input lines and the edge FIFO -/

theorem keeps_setInput {s : State} {l : LineNo} {x : InputLine} (fifo : List EdgeRecord) (h : x.bindings = (s.input l).bindings) :
    Keeps s { s.setInput l x with fifo } :=
  keeps_lines fifo s.monitor fun k => by
    rw [show State.input { s with inputs := (s.setInput l x).inputs } k = (s.setInput l x).input k from rfl, State.input_setInput]
    split
    · next hk => rw [hk, h]
    · rfl

theorem keeps_recognize (l : LineNo) (s : State) : Keeps s (s.recognize l) := by
  unfold State.recognize
  dsimp only
  split
  · exact keeps_setInput s.fifo rfl
  · split
    · exact keeps_setInput _ rfl
    · exact keeps_setInput s.fifo rfl

theorem keeps_recognizeAll (ls : List LineNo) (s : State) : Keeps s (s.recognizeAll ls) := by
  induction ls generalizing s with
  | nil => exact .refl s
  | cons l ls ih =>
    refine Keeps.trans ?_ (ih _)
    dsimp only
    split
    · exact keeps_recognize l s
    · exact .refl s

theorem keeps_offerPlace (ls : List LineNo) (s : State) : Keeps s (State.offerPlace ls s) := by
  induction ls generalizing s with
  | nil => exact .refl s
  | cons l ls ih =>
    unfold State.offerPlace
    dsimp only
    split
    · split
      · refine Keeps.trans ?_ (ih _)
        exact keeps_setInput s.fifo rfl
      · split
        · exact keeps_setInput _ rfl
        · exact .refl s
    · exact ih s

theorem keeps_recordLeaves (early : Nat) (s : State) : Keeps s (s.recordLeaves early) :=
  (keeps_lines s.fifo.tail .ready fun _ => rfl).trans ((keeps_recognizeAll _ _).trans (keeps_offerPlace _ _))

theorem keeps_leaveIfApplied (early : Nat) (s : State) : Keeps s (s.leaveIfApplied early) := by
  unfold State.leaveIfApplied
  split
  · exact keeps_recordLeaves early s
  · exact .refl s

/-- The input lines are written one by one, and no binding list is. -/
theorem keeps_inputs {s : State} {f : LineNo → InputLine} (h : ∀ l, (f l).bindings = (s.input l).bindings) :
    Keeps s { s with inputs := Vector.ofFn f } :=
  keeps_lines s.fifo s.monitor fun l => by rw [inputs_ofFn, h]

theorem keeps_sampleInputs (pins : BitVec 8) (s : State) : Keeps s (s.sampleInputs pins) := by
  have h := keeps_recognizeAll allLines s
  unfold State.sampleInputs
  generalize State.recognizeAll allLines s = t at h ⊢
  exact h.trans (keeps_inputs fun _ => rfl)

theorem keeps_reportLost (rec : EdgeRecord) (s : State) : Keeps s (s.reportLost rec) := by
  unfold State.reportLost
  dsimp only
  split
  · exact .refl s
  · next hlost =>
    refine Keeps.trans ?_ (keeps_setInput _ rfl)
    clear hlost
    generalize (s.input rec.line).bindings = ns, (s.input rec.line).lost = lost
    induction ns generalizing s with
    | nil => exact .refl s
    | cons n ns ih =>
      refine Keeps.trans ?_ (ih _)
      dsimp only
      split
      · rw [deliver_eq_copies]; exact keeps_copies _ _ _
      · exact .refl s

/-- The take of a record, after its lost edges have been reported (R109 to R111). -/
theorem keeps_recordTaken (rec : EdgeRecord) (early : Nat) (s : State) :
    Keeps s (State.leaveIfApplied early
      { s.setInput rec.line { s.input rec.line with processed := rec.direction.level } with
        monitor := .applying
          ((s.setInput rec.line { s.input rec.line with processed := rec.direction.level }).applicationSet rec) false }) := by
  refine Keeps.trans ?_ (keeps_leaveIfApplied early _)
  exact (keeps_setInput (x := { s.input rec.line with processed := rec.direction.level }) s.fifo rfl).trans (keeps_monitor _ _)

/-! ## The timebase -/

/-- The time count moves forward, and the slew becomes one that keeps its law, or ends (R83, R96). -/
theorem keeps_clock {s : State} {time : TimeCount} {slew : Option Slew} (ht : s.time.toNat ≤ time.toNat)
    (hs : s.SlewLaw → ∀ r, slew = some r → r.Law) : Keeps s { s with time, slew } :=
  { Keeps.refl s with
    time := ht
    slew hs' := hs hs' }

theorem keeps_slewEnded (s : State) : Keeps s { s with slew := none } :=
  keeps_clock (time := s.time) (Nat.le_refl _) fun _ _ h => absurd h (by simp)

theorem keeps_endSlew (r : Slew) (s : State) : Keeps s (s.endSlew r) := by
  rw [State.endSlew, deliver_eq_copies]
  exact (keeps_slewEnded s).trans (keeps_copies _ _ _)

theorem keeps_countHoldoffs (s : State) : Keeps s s.countHoldoffs := by
  refine keeps_ports fun p => ?_
  rw [ports_ofFn]
  unfold HostPort.countTick
  split
  · exact .refl _ _
  · exact portStep_notices ..

theorem keeps_pendingDivisor {s : State} {d : Nat} (h : 1 ≤ d ∧ d ≤ 4096) : Keeps s { s with pendingDivisor := some d } :=
  { Keeps.refl s with
    divider := fun ⟨hlow, hhigh, hdiv, _, hdue⟩ => ⟨hlow, hhigh, hdiv, fun e he => by cases he; exact h, hdue⟩ }

theorem keeps_endDivision (s : State) : Keeps s s.endDivision :=
  { Keeps.refl s with
    divider := fun ⟨hlow, hhigh, hdiv, hpend, hdue⟩ => by
      have hd : 1 ≤ s.pendingDivisor.getD s.divisor ∧ s.pendingDivisor.getD s.divisor ≤ 4096 := by
        cases hp : s.pendingDivisor with
        | none => exact ⟨hlow, hhigh⟩
        | some d => exact hpend d hp
      exact ⟨hd.1, hd.2, hd.1, nofun, nofun⟩ }

theorem satTime_later {s : State} (n : Nat) : s.time.toNat ≤ (satTime (s.time.toNat + n)).toNat := by
  rw [satTime_toNat, Config.timeMax]; omega

theorem keeps_advance (doneFirst : Bool) (s : State) : Keeps s (s.advance doneFirst) := by
  unfold State.advance
  split
  · next hs =>
    refine Keeps.trans ?_ (keeps_countHoldoffs _)
    exact keeps_clock (slew := s.slew) (satTime_later 1) fun h => h
  · next r hs =>
    dsimp only
    have hended : Keeps s { s with time := satTime (s.time.toNat + r.tick.2), slew := none } :=
      keeps_clock (satTime_later _) fun _ _ h => absurd h (by simp)
    split
    · split
      · refine Keeps.trans ?_ (keeps_countHoldoffs _)
        rw [State.endSlew, deliver_eq_copies]
        exact hended.trans (keeps_copies _ _ _)
      · rw [State.endSlew, deliver_eq_copies]
        exact (hended.trans (keeps_countHoldoffs _)).trans (keeps_copies _ _ _)
    · next hticks =>
      refine Keeps.trans (keeps_clock (satTime_later _) fun hlaw x hx => ?_) (keeps_countHoldoffs _)
      cases hx
      rw [slew_tick_ticksRemaining] at hticks
      exact slew_tick (hlaw r hs) (by omega)

theorem keeps_takeTick (early : Nat) (doneFirst : Bool) (s : State) : Keeps s (s.takeTick early doneFirst) :=
  (keeps_recognizeAll _ s).trans ((keeps_endDivision _).trans (keeps_advance _ _))

theorem keeps_tick (pins : BitVec 8) (early : Nat) (doneFirst : Bool) (s : State) : Keeps s (s.tick pins early doneFirst) := by
  unfold State.tick
  split
  · exact keeps_takeTick _ _ _
  · split
    · exact (keeps_sampleInputs _ _).trans (keeps_takeTick _ _ _)
    · exact .refl s

theorem keeps_refclkEdge (pins : BitVec 8) (tickLater : Bool) (s : State) : Keeps s (s.refclkEdge pins tickLater) := by
  obtain ⟨inputs, fifo, hsample⟩ : ∃ inputs fifo, s.sampleInputs pins = { s with inputs, fifo } := by
    obtain ⟨inputs, fifo, h⟩ := State.recognizeAll_frame allLines s
    exact ⟨_, fifo, by rw [State.sampleInputs, h]⟩
  have hkeeps := keeps_sampleInputs pins s
  unfold State.refclkEdge
  split
  · next hnext =>
    have hnext : s.divisor ≤ s.divider + 1 := of_decide_eq_true hnext
    split
    · refine hkeeps.trans ?_
      rw [hsample]
      exact { Keeps.refl { s with inputs, fifo } with
        divider := fun ⟨hlow, hhigh, hdiv, hpend, _⟩ => ⟨hlow, hhigh, hdiv, hpend, fun _ => by
        change s.divider < s.divisor at hdiv; change s.divider + 1 = s.divisor; omega⟩ }
    · exact hkeeps.trans (keeps_takeTick _ _ _)
  · next hnext =>
    have hnext : s.divider + 1 < s.divisor := Nat.not_le.1 (of_decide_eq_false (Bool.eq_false_iff.2 hnext))
    refine hkeeps.trans ?_
    rw [hsample]
    exact { Keeps.refl { s with inputs, fifo } with
        divider := fun ⟨hlow, hhigh, _, hpend, hdue⟩ => ⟨hlow, hhigh, hnext, hpend, fun h => by
      have : s.divider + 1 = s.divisor := hdue h
      omega⟩ }

/-! ## Links and pins -/

theorem keeps_takeTransaction (p : PortNo) (k : HostPort → HostPort) (s : State)
    (h : ∀ x : HostPort, x.link = .selected .opened → PortStep s.rstn x (k x)) : Keeps s (s.takeTransaction p k) := by
  unfold State.takeTransaction
  split
  · next hl => exact keeps_setPort (h _ hl)
  · exact .refl s

/-- A transaction on a link that is not INERT goes on to one that answers no FETCH. -/
theorem portStep_answer {rstn : Bool} {x y : HostPort} {t : Transaction} (reply : List Byte) (h : PortStep rstn x y)
    (hx : x.link = .selected t) (hp : y.prstn = x.prstn) : PortStep rstn x (y.answer reply) where
  session := h.session
  executing := h.executing
  request hlaw := by
    obtain ⟨hpending, hmark, -⟩ := h.request hlaw
    exact ⟨hpending, hmark, nofun⟩
  link hl := by
    rw [hx] at hl
    change _ ↔ rstn = true ∨ y.prstn = true
    rw [hp]; exact iff_of_false nofun fun h => absurd (hl.2 h) nofun

end Sys2Proof.Claims
end

section
/-! SUPPORT. The byte layouts: numbers and the bytes that spell them, fields of a record, and the mode blocks, output actions and ARM forms
that the parameter check reads back (R170, R171). -/

namespace Sys2Proof.Claims

open Sys2Proof.Machine

/-! ## Numbers and bytes -/

@[simp] theorem length_bytesBE (n v : Nat) : (bytesBE n v).length = n := by
  induction n with
  | zero => rfl
  | succ n ih => rw [bytesBE, List.length_cons, ih]

theorem foldl_numberBE (bs : List Byte) (v : Nat) :
    bs.foldl (fun v b => 256 * v + b.toNat) v = v * 256 ^ bs.length + numberBE bs := by
  unfold numberBE
  induction bs generalizing v with
  | nil => simp
  | cons b bs ih =>
    rw [List.foldl_cons, List.foldl_cons, ih, ih (256 * 0 + b.toNat), List.length_cons, pow_succ]
    ring

theorem numberBE_cons (b : Byte) (bs : List Byte) : numberBE (b :: bs) = b.toNat * 256 ^ bs.length + numberBE bs := by
  rw [numberBE, List.foldl_cons, foldl_numberBE]; simp

theorem numberBE_lt (bs : List Byte) : numberBE bs < 256 ^ bs.length := by
  induction bs with
  | nil => simp [numberBE]
  | cons b bs ih =>
    rw [numberBE_cons, List.length_cons, pow_succ]
    have hb : b.toNat * 256 ^ bs.length ≤ 255 * 256 ^ bs.length := Nat.mul_le_mul_right _ (by omega)
    omega

theorem numberBE_bytesBE (n v : Nat) : numberBE (bytesBE n v) = v % 256 ^ n := by
  induction n with
  | zero => simp [bytesBE, numberBE, Nat.mod_one]
  | succ n ih =>
    have hsplit : v % (256 ^ n * 256) = v % 256 ^ n + 256 ^ n * (v / 256 ^ n % 256) := Nat.mod_mul
    rw [bytesBE, numberBE_cons, ih, length_bytesBE, BitVec.toNat_ofNat, pow_succ 256, hsplit, Nat.mul_comm, Nat.add_comm]

theorem bytesBE_mod (n v : Nat) (k : Nat) : bytesBE n (v + k * 256 ^ n) = bytesBE n v := by
  induction n generalizing k with
  | zero => rfl
  | succ n ih =>
    rw [bytesBE, bytesBE, show k * 256 ^ (n + 1) = (k * 256) * 256 ^ n by rw [pow_succ]; ring, ih]
    congr 1
    rw [Nat.add_mul_div_right _ _ (by positivity)]
    apply BitVec.eq_of_toNat_eq
    simp [BitVec.toNat_ofNat]

theorem bytesBE_numberBE (bs : List Byte) : bytesBE bs.length (numberBE bs) = bs := by
  induction bs with
  | nil => rfl
  | cons b bs ih =>
    have hlt := numberBE_lt bs
    rw [List.length_cons, bytesBE, numberBE_cons, Nat.add_comm, bytesBE_mod, ih, Nat.add_mul_div_right _ _ (by positivity),
      Nat.div_eq_of_lt hlt, Nat.zero_add, BitVec.ofNat_toNat, BitVec.setWidth_eq]

theorem bytesBE_inj {n v w : Nat} (hv : v < 256 ^ n) (hw : w < 256 ^ n) : bytesBE n v = bytesBE n w ↔ v = w := by
  refine ⟨fun he => ?_, congrArg _⟩
  simpa only [numberBE_bytesBE, Nat.mod_eq_of_lt hv, Nat.mod_eq_of_lt hw] using congrArg numberBE he

/-- Records of equal first parts' lengths are equal part by part. -/
theorem append_eq_append_iff_parts {α : Type} {a b c d : List α} (h : a.length = b.length) : a ++ c = b ++ d ↔ a = b ∧ c = d :=
  ⟨fun he => List.append_inj he h, fun ⟨h, h'⟩ => by rw [h, h']⟩

/-! ## Fields -/

theorem map_range_getD (bs : List Byte) (at_ n : Nat) (h : at_ + n ≤ bs.length) :
    ((List.range n).map fun i => bs.getD (at_ + i) 0) = (bs.drop at_).take n := by
  refine List.ext_getElem (by simp; omega) fun i hi _ => ?_
  have hi : i < n := by simpa using hi
  simp [List.getD, show at_ + i < bs.length by omega]

theorem fieldBE_eq {bs : List Byte} {at_ n : Nat} (h : at_ + n ≤ bs.length) : fieldBE bs at_ n = numberBE ((bs.drop at_).take n) := by
  rw [fieldBE, map_range_getD bs at_ n h]

/-- A field holds less than its width allows. -/
theorem fieldBE_lt (bs : List Byte) (at_ n : Nat) : fieldBE bs at_ n < 256 ^ n := by
  simpa [fieldBE] using numberBE_lt ((List.range n).map fun i => bs.getD (at_ + i) 0)

theorem bytesBE_fieldBE {bs : List Byte} {at_ n : Nat} (h : at_ + n ≤ bs.length) :
    bytesBE n (fieldBE bs at_ n) = (bs.drop at_).take n := by
  have hlen : ((bs.drop at_).take n).length = n := by simp; omega
  rw [fieldBE_eq h]
  simpa only [hlen] using bytesBE_numberBE ((bs.drop at_).take n)

/-- A field is read in the part of a record that holds it. -/
theorem fieldBE_append_right {a b : List Byte} {at_ : Nat} (n : Nat) (h : a.length ≤ at_) :
    fieldBE (a ++ b) at_ n = fieldBE b (at_ - a.length) n := by
  unfold fieldBE
  congr 2 with i : 1
  rw [List.getD, List.getD, List.getElem?_append_right (by omega), Nat.sub_add_comm h]

theorem fieldBE_cons_succ (b : Byte) (bs : List Byte) (at_ n : Nat) : fieldBE (b :: bs) (at_ + 1) n = fieldBE bs at_ n := by
  simpa using fieldBE_append_right (a := [b]) (b := bs) n (at_ := at_ + 1) (by simp)

theorem fieldBE_bytesBE_append (n v : Nat) (bs : List Byte) : fieldBE (bytesBE n v ++ bs) 0 n = v % 256 ^ n := by
  rw [fieldBE_eq (by simp), List.drop_zero, List.take_left' (length_bytesBE n v), numberBE_bytesBE]

theorem fieldBE_bytesBE (n v : Nat) : fieldBE (bytesBE n v) 0 n = v % 256 ^ n := by
  simpa using fieldBE_bytesBE_append n v []

theorem fieldBE_one (b : Byte) (bs : List Byte) : fieldBE (b :: bs) 0 1 = b.toNat := by
  simp [fieldBE, numberBE, List.range_succ]

theorem byteAt_append_right {a b : List Byte} {i : Nat} (h : a.length ≤ i) : byteAt (a ++ b) i = byteAt b (i - a.length) := by
  rw [byteAt, byteAt, List.getD, List.getD, List.getElem?_append_right h]

/-- The bytes of a window are those of the record. -/
theorem byteAt_window (bs : List Byte) {o k i : Nat} (h : i < k) : byteAt ((bs.drop o).take k) i = byteAt bs (o + i) := by
  simp [byteAt, List.getD, h]

theorem fieldBE_window (bs : List Byte) {o k i n : Nat} (h : i + n ≤ k) :
    fieldBE ((bs.drop o).take k) i n = fieldBE bs (o + i) n := by
  unfold fieldBE
  congr 1
  refine List.map_congr_left fun j hj => ?_
  have hj : j < n := List.mem_range.1 hj
  simp [List.getD, show i + j < k by omega, Nat.add_assoc]

theorem ofNat_byteAt (bs : List Byte) (i : Nat) : BitVec.ofNat 8 (byteAt bs i) = bs.getD i 0 := by
  rw [byteAt, BitVec.ofNat_toNat, BitVec.setWidth_eq]

theorem byteAt_lt (bs : List Byte) (i : Nat) : byteAt bs i < 256 := (bs.getD i 0).isLt

/-! ## Codes -/

theorem lineOf_eq_some {v : Nat} {l : LineNo} : lineOf v = some l ↔ v = l.val := by
  unfold lineOf
  split
  · simp [Fin.ext_iff]
  · next h => exact iff_of_false nofun fun hv => h (hv ▸ l.isLt)

theorem level_ofCode_eq_some {v : Nat} {x : Level} : Level.ofCode v = some x ↔ v = x.code.toNat := by
  unfold Level.ofCode; split <;> cases x <;> simp_all [Level.code]

theorem direction_ofCode_eq_some {v : Nat} {x : Direction} : Direction.ofCode v = some x ↔ v = x.code.toNat := by
  unfold Direction.ofCode; split <;> cases x <;> simp_all [Direction.code]

theorem triggerEdge_ofCode_eq_some {v : Nat} {x : TriggerEdge} : TriggerEdge.ofCode v = some x ↔ v = x.code.toNat := by
  unfold TriggerEdge.ofCode; split <;> cases x <;> simp_all [TriggerEdge.code]

theorem share_ofCode_eq_some {v : Nat} {x : Share} : Share.ofCode v = some x ↔ v = x.code.toNat := by
  unfold Share.ofCode; split <;> cases x <;> simp_all [Share.code]

theorem yesNoOf_eq_some {v : Nat} {x : Bool} : yesNoOf v = some x ↔ v = (yesNo x).toNat := by
  unfold yesNoOf; split <;> cases x <;> simp_all [yesNo]

/-- A report set is read from its three bits, and one with a member from no other byte (R38, R171). -/
theorem reportSet_ofCode_eq_some {v : Nat} {x : ReportSet} :
    ReportSet.ofCode v = some x ↔ v = x.code.toNat ∧ x.nonempty = true := by
  by_cases hv : v < 8
  · obtain ⟨short, long, ends⟩ := x
    revert short long ends v
    decide
  · have : x.code.toNat < 8 := by obtain ⟨short, long, ends⟩ := x; revert short long ends; decide
    simp only [ReportSet.ofCode, hv, and_false, if_false, reduceCtorEq, false_iff, not_and]
    omega

/-- A period with its repeat limit is read back where both are in range (R38, R40). -/
theorem periodOf_eq_some {p n : Nat} (hp : p < 2 ^ 32) (hn : n < 2 ^ 16) {period : Option Word} {repeatLimit : Half} :
    periodOf p n = some (period, repeatLimit) ↔
      p = (period.getD 0).toNat ∧ n = repeatLimit.toNat ∧ periodInRange period repeatLimit = true := by
  unfold periodOf
  by_cases h : p = 0
  · subst h
    cases period with
    | none =>
      simp only [if_true, periodInRange, Option.getD_none, beq_iff_eq]
      constructor
      · intro h
        split at h
        · next hz => cases h; exact ⟨rfl, hz, rfl⟩
        · cases h
      · rintro ⟨-, hz, rfl⟩
        rw [if_pos (show n = 0 from hz)]
    | some x =>
      refine iff_of_false (fun h => ?_) ?_
      · rw [if_pos rfl] at h; split at h <;> cases h
      · rintro ⟨he, -, hx⟩
        have : x = 0 := BitVec.eq_of_toNat_eq he.symm
        rw [this] at hx; cases hx
  · cases period with
    | none => simp [h]
    | some x =>
      simp only [h, if_false, Option.some.injEq, Prod.mk.injEq, Option.getD_some, periodInRange, bne_iff_ne]
      constructor
      · rintro ⟨rfl, rfl⟩
        have hx : (BitVec.ofNat 32 p).toNat = p := Nat.mod_eq_of_lt hp
        exact ⟨hx.symm, (Nat.mod_eq_of_lt hn).symm, fun h0 => h (by rw [← hx, h0]; rfl)⟩
      · rintro ⟨rfl, rfl, -⟩
        simp

/-- The action and line bytes of a CONFIGURE (R40, R171). -/
theorem actionOf_eq_some {line action : Nat} {x : Option OutputAction} (hl : line < 256) (ha : action < 256) :
    actionOf line action = some x ↔ [BitVec.ofNat 8 line, BitVec.ofNat 8 action] = actionBytes x := by
  have key : [BitVec.ofNat 8 line, BitVec.ofNat 8 action] = actionBytes x ↔ match x with
      | none => line = 0 ∧ action = 0
      | some a => line = a.line.val ∧ action = a.action.code.toNat := by
    cases x with
    | none => simp [actionBytes, BitVec.toNat_eq, Nat.mod_eq_of_lt hl, Nat.mod_eq_of_lt ha]
    | some a =>
      have := a.line.isLt
      simp only [actionBytes, List.cons.injEq, and_true, BitVec.toNat_eq, BitVec.toNat_ofNat, Nat.mod_eq_of_lt hl,
        Nat.mod_eq_of_lt ha, Nat.mod_eq_of_lt (show a.line.val < 2 ^ 8 by omega)]
  rw [key]
  have hcode (a : Action) : a.code.toNat = 1 ∧ a = .set ∨ a.code.toNat = 2 ∧ a = .clear ∨ a.code.toNat = 3 ∧ a = .toggle := by
    cases a <;> decide
  cases x with
  | none => unfold actionOf; split <;> simp_all
  | some a =>
    obtain ⟨l, a⟩ := a
    unfold actionOf
    split
    · obtain h | h | h := hcode a <;> simp [h.1]
    all_goals simp only [Option.map_eq_some_iff, lineOf_eq_some, Option.some.injEq, OutputAction.mk.injEq]
    all_goals obtain ⟨h, rfl⟩ | ⟨h, rfl⟩ | ⟨h, rfl⟩ := hcode a <;> simp_all

/-! ## Mode blocks -/

/-- The fields of a mode block, in the order of R171. -/
def blockFields (bs : List Byte) : List Nat :=
  [byteAt bs 0, byteAt bs 1, byteAt bs 2, byteAt bs 3, byteAt bs 4, byteAt bs 5, byteAt bs 6, fieldBE bs 7 4, fieldBE bs 11 4,
    fieldBE bs 15 4, fieldBE bs 19 2]

/-- The values that a mode's block has in these fields. -/
def modeFields : Mode → List Nat
  | .oneShot => [1, 0, 0, 0, 0, 0, 0, 0, 0, 0, 0]
  | .periodic period repeatLimit => [2, 0, 0, 0, 0, 0, 0, period.toNat, 0, 0, repeatLimit.toNat]
  | .gated line active period repeatLimit =>
    [3, line.val, active.code.toNat, 0, 0, 0, 0, (period.getD 0).toNat, 0, 0, repeatLimit.toNat]
  | .triggered line edge delay period repeatLimit restart rewait =>
    [4, line.val, edge.code.toNat, 0, (yesNo restart).toNat, (yesNo rewait).toNat, 0, (period.getD 0).toNat, delay.toNat, 0,
      repeatLimit.toNat]
  | .window line startEdge endEdge limit report rewait =>
    [5, line.val, startEdge.code.toNat, endEdge.code.toNat, 0, (yesNo rewait).toNat, report.code.toNat, 0, 0, limit.toNat, 0]

theorem modeOf_window (bs : List Byte) (o : Nat) : modeOf bs o = modeOf ((bs.drop o).take 21) 0 := by
  unfold modeOf
  simp (disch := decide) only [byteAt_window, fieldBE_window, Nat.zero_add, Nat.add_zero]

theorem block_eq_fields {bs : List Byte} (h : bs.length = 21) :
    bs = [BitVec.ofNat 8 (byteAt bs 0), BitVec.ofNat 8 (byteAt bs 1), BitVec.ofNat 8 (byteAt bs 2), BitVec.ofNat 8 (byteAt bs 3),
        BitVec.ofNat 8 (byteAt bs 4), BitVec.ofNat 8 (byteAt bs 5), BitVec.ofNat 8 (byteAt bs 6)]
      ++ bytesBE 4 (fieldBE bs 7 4) ++ bytesBE 4 (fieldBE bs 11 4) ++ bytesBE 4 (fieldBE bs 15 4) ++ bytesBE 2 (fieldBE bs 19 2) := by
  have hhead : bs.take 7 = (List.range 7).map fun i => bs.getD (0 + i) 0 := (map_range_getD bs 0 7 (by omega)).symm
  rw [bytesBE_fieldBE (by omega), bytesBE_fieldBE (by omega), bytesBE_fieldBE (by omega), bytesBE_fieldBE (by omega)]
  simp only [ofNat_byteAt]
  calc bs = bs.take 21 := (List.take_of_length_le (by omega)).symm
    _ = bs.take 7 ++ (bs.drop 7).take 4 ++ (bs.drop 11).take 4 ++ (bs.drop 15).take 4 ++ (bs.drop 19).take 2 := by
      simp only [← List.take_add]
    _ = _ := by rw [hhead]; rfl

/-- A mode block is given by its fields. -/
theorem block_injective {bs bs' : List Byte} (h : bs.length = 21) (h' : bs'.length = 21) (hf : blockFields bs = blockFields bs') :
    bs = bs' := by
  rw [block_eq_fields h, block_eq_fields h']
  simp only [blockFields, List.cons.injEq, and_true] at hf
  obtain ⟨h0, h1, h2, h3, h4, h5, h6, hp, hd, hl, hr⟩ := hf
  rw [h0, h1, h2, h3, h4, h5, h6, hp, hd, hl, hr]

@[simp] theorem length_block (m : Mode) : m.block.length = 21 := by cases m <;> rfl

/-- The fields of a block that begins with seven bytes and four numbers. -/
theorem blockFields_append (k l e f g w r : Byte) (period delay limit count : Nat) :
    blockFields ([k, l, e, f, g, w, r] ++ bytesBE 4 period ++ bytesBE 4 delay ++ bytesBE 4 limit ++ bytesBE 2 count) =
      [k.toNat, l.toNat, e.toNat, f.toNat, g.toNat, w.toNat, r.toNat, period % 2 ^ 32, delay % 2 ^ 32, limit % 2 ^ 32,
        count % 2 ^ 16] := by
  simp only [List.append_assoc]
  have hhead (n : Nat) (bs : List Byte) (i : Nat) :
      fieldBE ([k, l, e, f, g, w, r] ++ bs) (7 + i) n = fieldBE bs i n := by
    rw [fieldBE_append_right n (by simp)]; congr 1; simp
  have hnext (v : Nat) (bs : List Byte) (i n : Nat) : fieldBE (bytesBE 4 v ++ bs) (4 + i) n = fieldBE bs i n := by
    rw [fieldBE_append_right n (by simp)]; congr 1; simp
  rw [blockFields, hhead 4 _ 0, hhead 4 _ 4, hhead 4 _ 8, hhead 2 _ 12, hnext _ _ 0, hnext _ _ 4, hnext _ _ 0, hnext _ _ 8,
    hnext _ _ 4, hnext _ _ 0, fieldBE_bytesBE_append, fieldBE_bytesBE_append, fieldBE_bytesBE_append, fieldBE_bytesBE]
  rfl

theorem blockFields_block (m : Mode) : blockFields m.block = modeFields m := by
  have hline (l : LineNo) : (lineByte l).toNat = l.val := by
    have := l.isLt; simp [lineByte, BitVec.toNat_ofNat]; omega
  have hword (w : Word) : w.toNat < 4294967296 := w.isLt
  have hhalf (w : Half) : w.toNat < 65536 := w.isLt
  cases m <;> rw [Mode.block, blockFields_append] <;> simp [modeFields, hline, hword, hhalf]

/-- The parameter check reads a mode back from its block, and from no other bytes (R38, R40, R171). -/
theorem modeOf_eq_some {bs : List Byte} {m : Mode} : modeOf bs 0 = some m ↔ m.inRange = true ∧ blockFields bs = modeFields m := by
  have hword (at_ : Nat) : fieldBE bs at_ 4 < 2 ^ 32 := fieldBE_lt bs at_ 4
  have hhalf : fieldBE bs 19 2 < 2 ^ 16 := fieldBE_lt bs 19 2
  have hperiod := hword 7
  have hdelay := hword 11
  have hlimit := hword 15
  unfold modeOf blockFields
  dsimp only
  simp only [Nat.zero_add]
  generalize fieldBE bs 7 4 = period, fieldBE bs 11 4 = delay, fieldBE bs 15 4 = limit, fieldBE bs 19 2 = count at *
  generalize byteAt bs 0 = kind, byteAt bs 1 = line, byteAt bs 2 = edge, byteAt bs 3 = endEdge, byteAt bs 4 = retrigger,
    byteAt bs 5 = rewait, byteAt bs 6 = report
  have hofWord {v : Nat} (hv : v < 2 ^ 32) (w : Word) : BitVec.ofNat 32 v = w ↔ v = w.toNat := by
    rw [← BitVec.toNat_inj, BitVec.toNat_ofNat, Nat.mod_eq_of_lt hv]
  have hofHalf (w : Half) : BitVec.ofNat 16 count = w ↔ count = w.toNat := by
    rw [← BitVec.toNat_inj, BitVec.toNat_ofNat, Nat.mod_eq_of_lt hhalf]
  split
  · cases m <;> simp [modeFields, Mode.inRange]
  · cases m with
    | periodic p n =>
      simp [modeFields, Mode.inRange, hofWord hperiod, hofHalf, ← BitVec.toNat_inj]
      grind
    | _ => simp [modeFields]
  · cases m with
    | gated l active p n =>
      simp [modeFields, Mode.inRange, Option.bind_eq_some_iff, lineOf_eq_some, level_ofCode_eq_some,
        periodOf_eq_some hperiod hhalf]
      grind
    | _ => simp [modeFields, Option.bind_eq_some_iff]
  · cases m with
    | triggered l e d p n restart again =>
      simp [-Bool.exists_bool, modeFields, Mode.inRange, Option.bind_eq_some_iff, lineOf_eq_some, triggerEdge_ofCode_eq_some,
        yesNoOf_eq_some, periodOf_eq_some hperiod hhalf, hofWord hdelay]
      grind
    | _ => simp [modeFields, Option.bind_eq_some_iff]
  · cases m with
    | window l e e' w set again =>
      simp [-Bool.exists_bool, modeFields, Mode.inRange, Option.bind_eq_some_iff, lineOf_eq_some, direction_ofCode_eq_some, yesNoOf_eq_some,
        reportSet_ofCode_eq_some, hofWord hlimit, ← BitVec.toNat_inj]
      grind
    | _ => simp [modeFields, Option.bind_eq_some_iff]
  · cases m <;> simp_all [modeFields]

/-- The mode that a CONFIGURE's bytes spell lies in its ranges (R38, R40). -/
theorem inRange_of_modeOf {bs : List Byte} {o : Nat} {m : Mode} (h : modeOf bs o = some m) : m.inRange = true :=
  (modeOf_eq_some.1 (modeOf_window bs o ▸ h)).1

/-- The mode block of a CONFIGURE, read where it stands. -/
theorem modeOf_eq_some_iff {bs : List Byte} {o : Nat} (ho : o + 21 ≤ bs.length) {m : Mode} :
    modeOf bs o = some m ↔ m.inRange = true ∧ (bs.drop o).take 21 = m.block := by
  rw [modeOf_window, modeOf_eq_some, ← blockFields_block]
  exact and_congr_right' ⟨block_injective (by simp; omega) (length_block m), congrArg blockFields⟩

/-! ## The parameters of CONFIGURE and ARM -/

@[simp] theorem length_configureBytes (v : Byte) (mode : Mode) (tag : Word) (action : Option OutputAction) :
    (configureBytes v mode tag action).length = 28 := by
  cases action <;> simp [configureBytes, actionBytes]

/-- The parameters of a CONFIGURE by their parts (R171). -/
theorem configureBytes_split {bs : List Byte} (h : bs.length = 28) :
    bs = bs.getD 0 0 :: (bs.drop 1).take 21 ++ bytesBE 4 (fieldBE bs 22 4) ++
      [BitVec.ofNat 8 (byteAt bs 26), BitVec.ofNat 8 (byteAt bs 27)] := by
  have hhead : bs.take 1 = [bs.getD 0 0] := (map_range_getD bs 0 1 (by omega)).symm
  have hlast : (bs.drop 26).take 2 = [bs.getD 26 0, bs.getD 27 0] := (map_range_getD bs 26 2 (by omega)).symm
  rw [bytesBE_fieldBE (by omega), ofNat_byteAt, ofNat_byteAt, ← hlast, ← List.singleton_append, ← hhead]
  simp only [← List.take_add]
  exact (List.take_of_length_le (by omega)).symm

/-- The parameter check of CONFIGURE reads exactly the encodings within their ranges (R40 step 1, R171). -/
theorem configureOf_eq_some {bs : List Byte} (h : bs.length = 28) {mode : Mode} {tag : Word} {action : Option OutputAction} :
    configureOf bs = some (mode, tag, action) ↔
      mode.inRange = true ∧ bs = configureBytes (bs.getD 0 0) mode tag action := by
  have hparts : configureOf bs = some (mode, tag, action) ↔ modeOf bs 1 = some mode ∧
      BitVec.ofNat 32 (fieldBE bs 22 4) = tag ∧ actionOf (byteAt bs 26) (byteAt bs 27) = some action := by
    simp [configureOf, Option.bind_eq_some_iff]
    tauto
  have htag : BitVec.ofNat 32 (fieldBE bs 22 4) = tag ↔ bytesBE 4 (fieldBE bs 22 4) = bytesBE 4 tag.toNat := by
    have hlt : fieldBE bs 22 4 < 2 ^ 32 := fieldBE_lt bs 22 4
    rw [← BitVec.toNat_inj, BitVec.toNat_ofNat, Nat.mod_eq_of_lt hlt, bytesBE_inj (fieldBE_lt bs 22 4) tag.isLt]
  rw [hparts, modeOf_eq_some_iff (by omega), htag, actionOf_eq_some (byteAt_lt _ _) (byteAt_lt _ _), and_assoc]
  refine and_congr_right' ?_
  have hsplit := configureBytes_split h
  have hlen : ((bs.drop 1).take 21).length = mode.block.length := by simp; omega
  constructor
  · rintro ⟨hblock, htag, haction⟩
    rw [configureBytes, ← hblock, ← htag, ← haction]; exact hsplit
  · intro he
    rw [configureBytes] at he
    have := hsplit.symm.trans he
    simp only [List.cons_append, List.append_assoc, List.cons.injEq, true_and] at this
    obtain ⟨hblock, hrest⟩ := List.append_inj this hlen
    obtain ⟨htag, haction⟩ := List.append_inj hrest (by simp)
    exact ⟨hblock, htag, haction⟩

@[simp] theorem length_armBytes (form : ArmForm) : (armBytes form).length = 14 := by cases form <;> simp [armBytes]

/-- The parameters of an ARM after its slot number, by their parts (R171). -/
theorem armBytes_split {v : Byte} {bs : List Byte} (h : bs.length = 14) :
    bs = [BitVec.ofNat 8 (byteAt (v :: bs) 1), BitVec.ofNat 8 (byteAt (v :: bs) 2)] ++ bytesBE 8 (fieldBE (v :: bs) 3 8) ++
      bytesBE 4 (fieldBE (v :: bs) 11 4) := by
  have hhead : bs.take 2 = [bs.getD 0 0, bs.getD 1 0] := (map_range_getD bs 0 2 (by omega)).symm
  rw [fieldBE_cons_succ, fieldBE_cons_succ, bytesBE_fieldBE (by omega), bytesBE_fieldBE (by omega), ofNat_byteAt, ofNat_byteAt]
  calc bs = bs.take 14 := (List.take_of_length_le (by omega)).symm
    _ = bs.take 2 ++ (bs.drop 2).take 8 ++ (bs.drop 10).take 4 := by simp only [← List.take_add]
    _ = _ := by rw [hhead]; rfl

/-- Bytes that spell an ARM's form, policy, time and duration are equal when these are. -/
theorem armBytes_inj {k p time duration : Nat} {x y : Byte} {t d : Nat} (hk : k < 256) (hp : p < 256) (htime : time < 2 ^ 64)
    (hduration : duration < 2 ^ 32) (ht : t < 2 ^ 64) (hd : d < 2 ^ 32) :
    [BitVec.ofNat 8 k, BitVec.ofNat 8 p] ++ bytesBE 8 time ++ bytesBE 4 duration = [x, y] ++ bytesBE 8 t ++ bytesBE 4 d ↔
      k = x.toNat ∧ p = y.toNat ∧ time = t ∧ duration = d := by
  have hbyte {v : Nat} {b : Byte} (hv : v < 256) : BitVec.ofNat 8 v = b ↔ v = b.toNat := by
    rw [← BitVec.toNat_inj, BitVec.toNat_ofNat, Nat.mod_eq_of_lt (by omega)]
  rw [append_eq_append_iff_parts (by simp), append_eq_append_iff_parts (by simp), bytesBE_inj htime ht,
    bytesBE_inj hduration hd]
  simp [hbyte hk, hbyte hp, and_assoc]

/-- The parameter check of ARM reads exactly the encodings within their ranges (R42, R171). -/
theorem armFormOf_eq_some {v : Byte} {bs : List Byte} (h : bs.length = 14) {form : ArmForm} :
    armFormOf (v :: bs) = some form ↔ armInRange form = true ∧ bs = armBytes form := by
  have hparts : bs = armBytes form ↔ [BitVec.ofNat 8 (byteAt (v :: bs) 1), BitVec.ofNat 8 (byteAt (v :: bs) 2)] ++
      bytesBE 8 (fieldBE (v :: bs) 3 8) ++ bytesBE 4 (fieldBE (v :: bs) 11 4) = armBytes form := by rw [← armBytes_split h]
  rw [hparts]
  clear hparts
  have hkind := byteAt_lt (v :: bs) 1
  have hpolicy := byteAt_lt (v :: bs) 2
  have htime : fieldBE (v :: bs) 3 8 < 2 ^ 64 := fieldBE_lt (v :: bs) 3 8
  have hduration : fieldBE (v :: bs) 11 4 < 2 ^ 32 := fieldBE_lt (v :: bs) 11 4
  unfold armFormOf
  dsimp only
  generalize byteAt (v :: bs) 1 = kind, byteAt (v :: bs) 2 = policy, fieldBE (v :: bs) 3 8 = time,
    fieldBE (v :: bs) 11 4 = duration at *
  have hofTime (t : TimeCount) : BitVec.ofNat 64 time = t ↔ time = t.toNat := by
    rw [← BitVec.toNat_inj, BitVec.toNat_ofNat, Nat.mod_eq_of_lt htime]
  have hofWord (w : Word) : BitVec.ofNat 32 duration = w ↔ duration = w.toNat := by
    rw [← BitVec.toNat_inj, BitVec.toNat_ofNat, Nat.mod_eq_of_lt hduration]
  have hinj (x y : Byte) (t d : Nat) (ht : t < 2 ^ 64) (hd : d < 2 ^ 32) :=
    armBytes_inj hkind hpolicy htime hduration (x := x) (y := y) ht hd
  cases form with
  | absolute t refuse =>
    rw [armBytes, hinj _ _ _ _ t.isLt (by decide)]
    split <;> simp [armInRange, yesNoOf_eq_some, *]
    all_goals tauto
  | relative t refuse =>
    rw [armBytes, hinj _ _ _ _ t.isLt (by decide)]
    split <;> simp [armInRange, yesNoOf_eq_some, *]
    all_goals tauto
  | duration ticks =>
    rw [armBytes, hinj _ _ _ _ (by decide) ticks.isLt]
    split <;> simp [armInRange, ← BitVec.toNat_inj, *]
    all_goals grind
  | none =>
    rw [armBytes, hinj _ _ _ _ (by decide) (by decide)]
    split <;> simp [armInRange, *]
    all_goals tauto

end Sys2Proof.Claims
end

section
/-! SUPPORT. The slot operations of the nine requests that have one, and the requests themselves, as the laws see them. -/

namespace Sys2Proof.Claims

open Sys2Proof.Machine

/-! ## Operations that raise no generation -/

theorem ready_of_waitsFor {s : State} {n : SlotNo} (h : s.waitsFor (some n) = none) : s.isFiring n = false ∧ s.insertion = none :=
  (State.waitsFor_eq_none s n).1 h

theorem engine_release (n : SlotNo) (r : Reservation) (s : State) : (s.release n r).engine = s.engine := by
  obtain ⟨_, _, _, _, _, _, h⟩ := s.release_frame n r
  rw [h]

theorem engine_copies (s : State) (sentTo : PortNo → Bool) (notice : PortNo → Notice) :
    (copies s sentTo notice).engine = s.engine := rfl

theorem InHand.of_engine {s t : State} {p : PortNo} (h : InHand s p) (he : t.engine = s.engine) : InHand t p := by
  unfold InHand; rw [he]; exact h

/-- A change of the part under a request in hand, and then the request's completion. -/
theorem Keeps.complete {s t : State} {p : PortNo} (h : Keeps s t) (hh : InHand s p) (he : t.engine = s.engine) (status : Status)
    (results : List Byte) : Keeps s (t.complete p status results) :=
  h.trans (keeps_complete (hh.of_engine he) status results)

theorem Lawful.complete {s t : State} {p : PortNo} (h : Lawful s t) (hh : InHand s p) (he : t.engine = s.engine) (status : Status)
    (results : List Byte) : Lawful s (t.complete p status results) :=
  h.trans (keeps_complete (hh.of_engine he) status results).toLawful

/-- An operation that is no WATCH keeps no WATCH waiting. -/
theorem Offered.no_watch {s : State} {p : PortNo} {op : SlotOp} (h : Offered s p op) (hop : ∀ n, op ≠ .watch n) :
    watchWaits s.engine = none := by
  obtain he | ⟨on, he⟩ := h.engine
  · rw [he]; rfl
  · rw [he]; cases op with
    | watch n => exact absurd rfl (hop n)
    | _ => rfl

theorem keeps_releaseOp {s : State} {p : PortNo} {n : SlotNo} (h : Offered s p (.release n)) (hw : s.waitsFor (some n) = none) :
    Keeps s (s.releaseOp p n) := by
  obtain ⟨hfiring, hi⟩ := ready_of_waitsFor hw
  unfold State.releaseOp
  split
  · next r hr => exact (keeps_release hr hfiring hi (h.no_watch nofun)).complete h.inHand (engine_release n r s) _ _
  · exact keeps_refuse h.inHand _

theorem keeps_setShareOp {s : State} {p : PortNo} {n : SlotNo} {share : Share} (h : Offered s p (.setShare n share)) :
    Keeps s (s.setShareOp p n share) := by
  have hwatch := h.no_watch nofun
  unfold State.setShareOp
  split
  · next r hr =>
    dsimp only
    split
    · exact keeps_complete h.inHand _ _
    · split
      · refine (keeps_setHeld_watch (r' := { r with share := .opn }) hr rfl (fun hs => ⟨((watcherLaw_iff.1 hs).1 n r hr).1, nofun⟩)
          (.inl hwatch) fun q hq hq' => ?_).complete h.inHand rfl _ _
        exact absurd (hq.symm.trans hq') nofun
      · rw [deliverWatchers_eq_copies]
        refine Keeps.complete (Keeps.trans (keeps_setHeld_watch (r' := { r with share := .priv, watchers := noWatchers }) hr rfl
          (fun _ => ⟨by simp [noWatchers], fun _ => rfl⟩) (.inl hwatch) fun q hq => ?_) (keeps_copies _ _ _)) h.inHand rfl _ _
        exact absurd hq (by simp [noWatchers])
  · exact keeps_refuse h.inHand _

theorem keeps_watchOp {s : State} {p : PortNo} {n : SlotNo} (h : Offered s p (.watch n)) : Keeps s (s.watchOp p n) := by
  unfold State.watchOp
  split
  · next r hr =>
    refine (keeps_setHeld_watch (r' := { r with watchers := r.watchers.set p true }) hr rfl (fun hs => ?_) (.inr rfl)
      fun q hq hq' => ?_).complete h.inHand rfl _ _
    · obtain ⟨r', hr', howner, hshare⟩ := h.watch n rfl hs
      cases hr.symm.trans hr'
      have hne : p.val ≠ r.owner.val := fun he => howner (Fin.ext he.symm)
      refine ⟨?_, fun hpriv => absurd (hshare.symm.trans hpriv) nofun⟩
      simpa [Vector.getElem_set, hne] using ((watcherLaw_iff.1 hs).1 n r hr).1
    · have : p = q := by
        by_contra hne
        have hne : p.val ≠ q.val := fun he => hne (Fin.ext he)
        simp [hne] at hq
        exact absurd (hq.symm.trans hq') nofun
      exact this ▸ h.opened
  · exact keeps_refuse h.inHand _

/-- A port leaves a watcher set (R19, R164). -/
theorem keeps_unwatched {s : State} {n : SlotNo} {r : Reservation} (p : PortNo) (hr : s.held n = some r) :
    Keeps s (s.setHeld n { r with watchers := r.watchers.set p false }) := by
  have hset (q : PortNo) (hq : (r.watchers.set p false)[q] = true) : r.watchers[q] = true := by
    by_cases hne : p.val = q.val
    · simp [hne] at hq
    · simpa [Vector.getElem_set, hne] using hq
  refine keeps_setHeld_watch hr rfl (fun hs => ?_) (.inr rfl) fun q hq hq' => absurd ((hset q hq).symm.trans hq') nofun
  obtain ⟨howner, hpriv⟩ := (watcherLaw_iff.1 hs).1 n r hr
  refine ⟨Bool.eq_false_iff.2 fun h => absurd ((hset r.owner h).symm.trans howner) nofun, fun h => ?_⟩
  refine Vector.ext fun i hi => ?_
  have hf : r.watchers[i] = false := by simp [hpriv h, noWatchers]
  have := hset ⟨i, hi⟩
  have hnone : (r.watchers.set p false)[i] = false := Bool.eq_false_iff.2 fun h => absurd ((this h).symm.trans hf) nofun
  exact hnone.trans (by simp [noWatchers])

theorem keeps_unwatchOp {s : State} {p : PortNo} {n : SlotNo} (h : Offered s p (.unwatch n)) : Keeps s (s.unwatchOp p n) := by
  unfold State.unwatchOp
  split
  · next r hr => exact (keeps_unwatched p hr).complete h.inHand rfl _ _
  · exact keeps_refuse h.inHand _

theorem keeps_queryOp {s : State} {p : PortNo} {n : SlotNo} (h : Offered s p (.query n)) : Keeps s (s.queryOp p n) := by
  unfold State.queryOp
  split
  · exact keeps_complete h.inHand _ _
  · exact keeps_refuse h.inHand _

theorem engine_rebind (n : SlotNo) (old new : Mode) (s : State) : (s.rebind n old new).engine = s.engine := by
  obtain ⟨_, _, h⟩ := s.rebind_frame n old new
  rw [h]

theorem keeps_configureOp {s : State} {p : PortNo} {n : SlotNo} {mode : Mode} {tag : Word} {action : Option OutputAction}
    (h : Offered s p (.configure n mode tag action)) (hw : s.waitsFor (some n) = none) :
    Keeps s (s.configureOp p n mode tag action) := by
  obtain ⟨-, hi⟩ := ready_of_waitsFor hw
  unfold State.configureOp
  split
  · exact keeps_refuse h.inHand _
  · next r hr =>
    split
    · exact keeps_refuse h.inHand _
    · next hidle =>
      split
      · exact keeps_refuse h.inHand _
      · next haction =>
        split
        · exact keeps_refuse h.inHand _
        · next hfull =>
          exact (keeps_configured hr (not_not.1 hidle) hi (h.configure n mode tag action rfl) (by simpa using haction)
            (by simpa using hfull)).complete h.inHand (engine_rebind n r.mode mode s) _ _

/-- A slot that stops is lawful. -/
theorem law_idle {r : Reservation} (h : r.Law) : Reservation.Law { r with run := .idle } := ⟨h.1, rfl, trivial⟩

theorem keeps_disarmOp {s : State} {p : PortNo} {n : SlotNo} (h : Offered s p (.disarm n)) (hw : s.waitsFor (some n) = none) :
    Keeps s (s.disarmOp p n) := by
  obtain ⟨hfiring, hi⟩ := ready_of_waitsFor hw
  unfold State.disarmOp
  split
  · exact keeps_refuse h.inHand _
  · next r hr =>
    dsimp only
    split
    · exact keeps_complete h.inHand _ _
    · rw [deliverWatchers_eq_copies]
      exact ((keeps_remove hr hfiring hi rfl rfl rfl law_idle).trans (keeps_copies _ _ _)).complete h.inHand rfl _ _

/-! ## Operations that raise a generation -/

/-- Generations rise by one at some of the slots that `raise` names, and change nowhere else (R3). -/
def Raises (raise : SlotNo → Prop) (s t : State) : Prop :=
  ∀ n, (t.slot n).generation = (s.slot n).generation ∨ (raise n ∧ (t.slot n).generation = (s.slot n).generation + 1)

theorem Keeps.raises {s t : State} (h : Keeps s t) (raise : SlotNo → Prop) : Raises raise s t := fun n => .inl (h.generation n)

theorem Raises.complete {s t : State} {raise : SlotNo → Prop} (h : Raises raise s t) (p : PortNo) (status : Status)
    (results : List Byte) : Raises raise s (t.complete p status results) := h

theorem slot_slotTaken (s : State) (p : PortNo) (n m : SlotNo) :
    (slotTaken s p n).slot m =
      if m = n then { generation := (s.slot n).generation + 1, held := some (Reservation.fresh p) } else s.slot m :=
  s.slot_setSlot n m _

/-- RESERVE's slot operation where it can be taken (R10). -/
theorem lawful_reserveOp {s : State} {p : PortNo} (h : Offered s p .reserve) (hi : s.insertion = none) :
    Lawful s (s.reserveOp p) ∧ Raises (fun _ => True) s (s.reserveOp p) := by
  by_cases hq : (s.quota p).owned < (s.quota p).quota
  · cases hn : s.freeSlot with
    | none =>
      have hop : s.reserveOp p = s.refuse p .noQuota := by simp [State.reserveOp, hn]
      rw [hop]
      exact ⟨(keeps_refuse h.inHand _).toLawful, (keeps_refuse h.inHand _).raises _⟩
    | some n =>
      rw [reserveOp_of_freeSlot hn hq]
      refine ⟨(lawful_slotTaken (freeSlot_eq_some_iff.1 hn).1 hi hq h.opened).complete h.inHand rfl _ _, fun m => ?_⟩
      have hslot := slot_slotTaken s p n m
      by_cases hm : m = n
      · subst hm; rw [if_pos rfl] at hslot; exact .inr ⟨trivial, congrArg Slot.generation hslot⟩
      · rw [if_neg hm] at hslot; exact .inl (congrArg Slot.generation hslot)
  · have hop : s.reserveOp p = s.refuse p .noQuota := by
      cases hn : s.freeSlot <;> simp [State.reserveOp, hn, hq]
    rw [hop]
    exact ⟨(keeps_refuse h.inHand _).toLawful, (keeps_refuse h.inHand _).raises _⟩

/-- Generation and reservation of slot `n` as an ARM leaves them. -/
def raisedTo (s : State) (n : SlotNo) (r : Reservation) : State :=
  s.setSlot n { generation := (s.slot n).generation + 1, held := some r }

theorem raiseGeneration_eq (s : State) (n : SlotNo) (r : Reservation) : s.raiseGeneration n r = raisedTo s n { r with fireCount := 0 } :=
  rfl

theorem setHeld_raiseGeneration (s : State) (n : SlotNo) (r r' : Reservation) : (s.raiseGeneration n r).setHeld n r' = raisedTo s n r' := by
  simp [State.raiseGeneration, State.setHeld, State.setSlot, raisedTo, State.slot, Vector.set_set]

theorem raises_raisedTo {s : State} (n : SlotNo) (r : Reservation) : Raises (· = n) s (raisedTo s n r) := fun m => by
  unfold raisedTo
  rw [State.slot_setSlot]
  split
  · next hm => exact .inr ⟨hm, by rw [hm]⟩
  · exact .inl rfl

theorem lawful_raisedTo {s : State} {n : SlotNo} {r : Reservation} {run : Run} (hr : s.held n = some r) (hidle : r.run = .idle)
    (hi : s.insertion = none) (hrun : run.isFiring = false) (harmed : run.armedDeadline = none)
    (hlaw : r.Law → Reservation.Law { r with fireCount := 0, run }) : Lawful s (raisedTo s n { r with fireCount := 0, run }) :=
  lawful_setSlot_idle _ hr hidle hi rfl hrun harmed hlaw

/-- Work after the raise that leaves the slots' generations alone. -/
theorem Raises.then_keeps {s t u : State} {raise : SlotNo → Prop} (h : Raises raise s t) (hk : Keeps t u) :
    Raises raise s u := fun n => by
  rw [hk.generation n]; exact h n

/-- A fire count of 0 is below every repeat limit. -/
theorem belowLimit_zero {r : Reservation} (h : r.fireCount = 0) : r.belowLimit := fun hne => by
  rw [h]; exact Nat.pos_of_ne_zero hne

theorem lawful_armIn {s : State} {p : PortNo} {n : SlotNo} {r : Reservation} {run : Run} (hh : InHand s p) (hr : s.held n = some r)
    (hidle : r.run = .idle) (hi : s.insertion = none) (hrun : (∃ ticks, run = .paused ticks) ∨ run = .waiting)
    (hsuits : run.suits r.mode = true) : Lawful s (s.armIn p n r run) ∧ Raises (· = n) s (s.armIn p n r run) := by
  have hlaw (h : r.Law) : Reservation.Law { r with fireCount := 0, run } := by
    refine ⟨h.1, hsuits, ?_⟩
    obtain ⟨ticks, rfl⟩ | rfl := hrun
    · exact belowLimit_zero rfl
    · trivial
  have hquiet : run.isFiring = false ∧ run.armedDeadline = none := by obtain ⟨ticks, rfl⟩ | rfl := hrun <;> exact ⟨rfl, rfl⟩
  have hraised := lawful_raisedTo hr hidle hi hquiet.1 hquiet.2 hlaw
  unfold State.armIn
  rw [setHeld_raiseGeneration]
  exact ⟨hraised.complete hh rfl _ _, (raises_raisedTo n _).complete _ _ _⟩

/-- A completing insertion of an ARM ends it whatever the engine was doing for it. -/
theorem finishInsert_with_engine {s : State} {i : Insertion} {p : PortNo} {results : List Byte} (hc : i.client = .engine p results)
    (engine : Engine) : State.finishInsert i { s with engine } = s.finishInsert i := by
  have hplace : State.place i { s with engine } = { s.place i with engine } := by
    unfold State.place
    dsimp only
    cases s.held i.slot with
    | none => simp only [State.held, State.slot] at *; split <;> rfl
    | some r => simp only [State.held, State.slot] at *; split <;> rfl
  simp only [State.finishInsert, hc, hplace]
  rfl

theorem lawful_armAt {s : State} {p : PortNo} {n : SlotNo} {r : Reservation} (deadline : TimeCount) (hh : InHand s p)
    (hr : s.held n = some r) (hidle : r.run = .idle) (hi : s.insertion = none) (hw : r.mode.isWindow = false) :
    Lawful s (s.armAt p n r deadline) ∧ Raises (· = n) s (s.armAt p n r deadline) := by
  have hraised : Lawful s (s.raiseGeneration n r) := by
    rw [raiseGeneration_eq]
    exact lawful_setSlot_idle _ hr hidle hi rfl (by rw [hidle]; rfl) (by rw [hidle]; rfl)
      fun h => ⟨h.1, h.2.1, by rw [hidle]; trivial⟩
  have hheld : (s.raiseGeneration n r).held n = some { r with fireCount := 0 } := by
    rw [raiseGeneration_eq, raisedTo, State.held_setSlot, if_pos rfl]
  have hfits (results : List Byte) :
      Fits (s.raiseGeneration n r) { slot := n, deadline, windowStart := none, client := .engine p results } :=
    fits_of_held hheld (by rw [hidle]; rfl) (by rw [hidle]; rfl) nofun hw.symm fun _ => belowLimit_zero rfl
  suffices hk : Keeps (s.raiseGeneration n r) (s.armAt p n r deadline) from
    ⟨hraised.trans hk.toLawful, (raises_raisedTo n _).then_keeps hk⟩
  have hh : InHand (s.raiseGeneration n r) p := hh.of_engine rfl
  unfold State.armAt
  dsimp only
  generalize armResult ((s.slot n).generation + 1) (.armed deadline none) s.time = results
  obtain ⟨-, he⟩ | ⟨-, he⟩ := State.insert_cases { slot := n, deadline, windowStart := none, client := .engine p results }
    { s.raiseGeneration n r with engine := .inserting p }
  · rw [he, finishInsert_with_engine rfl]
    exact keeps_finishInsert_arm (hfits _) rfl fun _ => hh.requestPort
  · rw [he]
    exact keeps_inFlight_arm (hfits _) hh rfl

theorem lawful_armTimed {s : State} {p : PortNo} {n : SlotNo} {r : Reservation} (deadline : TimeCount) (refuse : Bool)
    (hh : InHand s p) (hr : s.held n = some r) (hidle : r.run = .idle) (hi : s.insertion = none) (hw : r.mode.isWindow = false) :
    Lawful s (s.armTimed p n r deadline refuse) ∧ Raises (· = n) s (s.armTimed p n r deadline refuse) := by
  unfold State.armTimed
  split
  · rw [raiseGeneration_eq]
    have hraised : Lawful s (raisedTo s n { r with fireCount := 0 }) :=
      lawful_setSlot_idle _ hr hidle hi rfl (by rw [hidle]; rfl) (by rw [hidle]; rfl)
        fun h => ⟨h.1, h.2.1, by rw [hidle]; trivial⟩
    exact ⟨hraised.complete hh rfl _ _, (raises_raisedTo n _).complete _ _ _⟩
  · exact lawful_armAt deadline hh hr hidle hi hw

/-- ARM's slot operation where it can be taken (R42 to R46). -/
theorem lawful_armOp {s : State} {p : PortNo} {n : SlotNo} {form : ArmForm} (h : Offered s p (.arm n form))
    (hw : s.waitsFor (some n) = none) : Lawful s (s.armOp p n form) ∧ Raises (· = n) s (s.armOp p n form) := by
  obtain ⟨-, hi⟩ := ready_of_waitsFor hw
  have hrefuse (status : Status) : Lawful s (s.refuse p status) ∧ Raises (· = n) s (s.refuse p status) :=
    ⟨(keeps_refuse h.inHand status).toLawful, (keeps_refuse h.inHand status).raises _⟩
  unfold State.armOp
  split
  · exact hrefuse _
  · next r hr =>
    split
    · exact hrefuse _
    · next hidle =>
      have hidle := not_not.1 hidle
      split
      · exact hrefuse _
      · next hsuits =>
        have hsuits : form.suits r.mode = true := by simpa using hsuits
        cases form with
        | absolute time refuse =>
          exact lawful_armTimed _ _ h.inHand hr hidle hi (by revert hsuits; cases r.mode <;> simp [ArmForm.suits, Mode.isWindow])
        | relative time refuse =>
          dsimp only
          split
          · exact hrefuse _
          · exact lawful_armTimed _ _ h.inHand hr hidle hi (by revert hsuits; cases r.mode <;> simp [ArmForm.suits, Mode.isWindow])
        | duration ticks =>
          dsimp only
          split
          · next line active period limit hm =>
            split
            · split
              · exact hrefuse _
              · exact lawful_armAt _ h.inHand hr hidle hi (by rw [hm]; rfl)
            · exact lawful_armIn h.inHand hr hidle hi (.inl ⟨ticks, rfl⟩) (by rw [hm]; rfl)
          · exact hrefuse _
        | none =>
          exact lawful_armIn h.inHand hr hidle hi (.inr rfl) (by revert hsuits; cases r.mode <;> simp [ArmForm.suits, Run.suits])

/-! ## Offers -/

/-- The slots whose generation an operation may raise. -/
def opRaises : SlotOp → SlotNo → Prop
  | .reserve, _ => True
  | .arm n _, m => m = n
  | _, _ => False

/-- A slot operation that can be taken (R5, R6). -/
theorem lawful_takeOp {s : State} {p : PortNo} {op : SlotOp} (h : Offered s p op) (hw : s.waitsFor op.slot = none) :
    Lawful s (s.takeOp p op) ∧ Raises (opRaises op) s (s.takeOp p op) := by
  have keeps {t : State} (hk : Keeps s t) : Lawful s t ∧ Raises (opRaises op) s t := ⟨hk.toLawful, hk.raises _⟩
  cases op with
  | reserve =>
    refine lawful_reserveOp h ?_
    rw [SlotOp.slot, waitsFor_noSlot] at hw
    cases hi : s.insertion with
    | none => rfl
    | some i => rw [hi] at hw; cases hw
  | release n => exact keeps (keeps_releaseOp h hw)
  | setShare n share => exact keeps (keeps_setShareOp h)
  | watch n => exact keeps (keeps_watchOp h)
  | unwatch n => exact keeps (keeps_unwatchOp h)
  | query n => exact keeps (keeps_queryOp h)
  | configure n mode tag action => exact keeps (keeps_configureOp h hw)
  | arm n form => exact lawful_armOp h hw
  | disarm n => exact keeps (keeps_disarmOp h hw)

/-- A slot operation that is offered is taken or waits (R6, R148). -/
theorem lawful_offer {s : State} {p : PortNo} {op : SlotOp} (h : Offered s p op) :
    Lawful s (s.offer p op.slot op (State.takeOp p op)) ∧
      Raises (opRaises op) s (s.offer p op.slot op (State.takeOp p op)) := by
  cases hw : s.waitsFor op.slot with
  | none => rw [State.offer_taken hw]; exact lawful_takeOp h hw
  | some w => rw [State.offer_waits hw]; exact ⟨(keeps_wait h w).toLawful, (keeps_wait h w).raises _⟩

end Sys2Proof.Claims
end

section
/-! SUPPORT. The rows of the twenty-two requests and the teardown, as the laws see them. -/

namespace Sys2Proof.Claims

open Sys2Proof.Machine

/-! ## Rows -/

/-- A row takes `s` to `t` lawfully, and raises generations at slots that `raise` names alone. -/
def Moves (raise : SlotNo → Prop) (s t : State) : Prop := Lawful s t ∧ Raises raise s t

theorem Keeps.moves {s t : State} (h : Keeps s t) (raise : SlotNo → Prop) : Moves raise s t := ⟨h.toLawful, h.raises raise⟩

theorem moves_live {s t : State} {f : State → State} {raise : SlotNo → Prop} (h : s.live f = .next t)
    (hf : s.rstn = false → Moves raise s (f s)) : Moves raise s t := by
  cases h
  cases hr : s.rstn with
  | true => exact (Keeps.refl s).moves raise
  | false => exact hf hr

/-- A row of a request does nothing, refuses, or does the request's own work for the port that has it in hand (R149). -/
theorem moves_serve {s : State} {c : Req} {k : PortNo → List Byte → State → State} {raise : SlotNo → Prop}
    (hk : ∀ p params, s.engine = .granted p → params.length = c.length → (c ≠ .openSession → (s.port p).session = .opened) →
      Moves raise s (k p params s)) : Moves raise s (s.serve c k) := by
  obtain h | ⟨p, f, he, -, -, hcases⟩ := State.serve_cases c k s
  · rw [h]; exact (Keeps.refl s).moves raise
  · obtain ⟨-, h⟩ | ⟨-, -, -, h⟩ | ⟨hlen, hopen, h⟩ := hcases
    · rw [h]; exact (keeps_refuse (.inl he) _).moves raise
    · rw [h]; exact (keeps_refuse (.inl he) _).moves raise
    · rw [h]; exact hk p f.params he hlen hopen

/-- The row of a request that only an OPEN port may make. -/
theorem moves_request {s t : State} {c : Req} {k : PortNo → List Byte → State → State} {raise : SlotNo → Prop}
    (h : (s.live fun s => s.serve c k) = .next t) (hc : c ≠ .openSession)
    (hk : ∀ p params, s.engine = .granted p → (s.port p).session = .opened → Moves raise s (k p params s)) : Moves raise s t :=
  moves_live h fun _ => moves_serve fun p params he _ hopen => hk p params he (hopen hc)

/-- A request in hand whose operation is neither a WATCH nor a CONFIGURE is offered as it stands. -/
theorem offered_of_granted {s : State} {p : PortNo} {op : SlotOp} (he : s.engine = .granted p)
    (hopen : (s.port p).session = .opened)
    (hw : ∀ n, op = .watch n → ∃ r, s.held n = some r ∧ r.owner ≠ p ∧ r.share = .opn)
    (hc : ∀ n mode tag action, op = .configure n mode tag action → mode.inRange = true) : Offered s p op :=
  ⟨.inl he, fun _ => hopen, fun n hn _ => hw n hn, fun n mode tag action h _ => hc n mode tag action h⟩

/-- A request on a slot of its own port (R9). -/
theorem moves_ownerRequest {s : State} {p : PortNo} {v : Nat} {op : SlotNo → SlotOp} {raise : SlotNo → Prop}
    (he : s.engine = .granted p) (hslot : ∀ n, (op n).slot = some n) (hop : ∀ n, Offered s p (op n))
    (hraise : ∀ n m, opRaises (op n) m → raise m) : Moves raise s (s.ownerRequest p v op fun n => State.takeOp p (op n)) := by
  unfold State.ownerRequest
  split
  · exact (keeps_refuse (.inl he) _).moves raise
  · next n r _ =>
    split
    · obtain ⟨hlawful, hraises⟩ := hslot n ▸ lawful_offer (hop n)
      exact ⟨hlawful, fun m => (hraises m).imp_right fun ⟨h, h'⟩ => ⟨hraise n m h, h'⟩⟩
    · exact (keeps_refuse (.inl he) _).moves raise

/-! ## Requests on slots -/

theorem moves_reserve {s t : State} (h : exec .reserve s = .next t) : Moves (fun _ => True) s t := by
  refine moves_request h nofun fun p _ he hopen => ?_
  split
  · exact lawful_offer (op := .reserve) (offered_of_granted he hopen nofun nofun)
  · exact (keeps_refuse (.inl he) _).moves _

theorem moves_release {s t : State} {raise : SlotNo → Prop} (h : exec .release s = .next t) : Moves raise s t :=
  moves_request h nofun fun _ _ he hopen =>
    moves_ownerRequest he (fun _ => rfl) (fun _ => offered_of_granted he hopen nofun nofun) fun _ _ => False.elim

theorem moves_disarm {s t : State} {raise : SlotNo → Prop} (h : exec .disarm s = .next t) : Moves raise s t :=
  moves_request h nofun fun _ _ he hopen =>
    moves_ownerRequest he (fun _ => rfl) (fun _ => offered_of_granted he hopen nofun nofun) fun _ _ => False.elim

theorem moves_setShare {s t : State} {raise : SlotNo → Prop} (h : exec .setShare s = .next t) : Moves raise s t := by
  refine moves_request h nofun fun p params he hopen => ?_
  split
  · exact (keeps_refuse (.inl he) _).moves raise
  · next share _ =>
    exact moves_ownerRequest (op := fun n => .setShare n share) he (fun _ => rfl)
      (fun _ => offered_of_granted he hopen nofun nofun) fun _ _ => False.elim

theorem moves_configure {s t : State} {raise : SlotNo → Prop} (h : exec .configure s = .next t) : Moves raise s t := by
  refine moves_request h nofun fun p params he hopen => ?_
  split
  · exact (keeps_refuse (.inl he) _).moves raise
  · next mode tag action hparams =>
    have hmode : modeOf params 1 = some mode := by
      obtain ⟨m, hm, a, -, heq⟩ : ∃ m, modeOf params 1 = some m ∧ ∃ a, actionOf (byteAt params 26) (byteAt params 27) = some a ∧
          (m, BitVec.ofNat 32 (fieldBE params 22 4), a) = (mode, tag, action) := by
        simpa [configureOf, Option.bind_eq_some_iff] using hparams
      cases heq; exact hm
    exact moves_ownerRequest (op := fun n => .configure n mode tag action) he (fun _ => rfl)
      (fun _ => offered_of_granted he hopen nofun fun _ _ _ _ hop => by cases hop; exact inRange_of_modeOf hmode)
      fun _ _ => False.elim

theorem moves_arm {s t : State} (h : exec .arm s = .next t) : Moves (fun _ => True) s t := by
  refine moves_request h nofun fun p params he hopen => ?_
  split
  · exact (keeps_refuse (.inl he) _).moves _
  · next form _ =>
    exact moves_ownerRequest (op := fun n => .arm n form) he (fun _ => rfl)
      (fun _ => offered_of_granted he hopen nofun nofun) fun _ _ _ => trivial

/-- An offer of an operation that raises no generation. -/
theorem moves_offer {s : State} {p : PortNo} {op : SlotOp} {raise : SlotNo → Prop} (h : Offered s p op)
    (hraise : ∀ m, ¬opRaises op m) : Moves raise s (s.offer p op.slot op (State.takeOp p op)) := by
  obtain ⟨hlawful, hraises⟩ := lawful_offer h
  exact ⟨hlawful, fun m => (hraises m).imp_right fun h => absurd h.1 (hraise m)⟩

/-- The reservation that a slot number in a frame names (R9). -/
theorem held_of_namedSlot {s : State} {v : Nat} {n : SlotNo} {r : Reservation} (h : s.namedSlot v = some (n, r)) :
    s.held n = some r := by
  unfold State.namedSlot at h
  split at h
  · obtain ⟨x, hx, heq⟩ := Option.map_eq_some_iff.1 h
    cases heq; exact hx
  · cases h

theorem moves_watch {s t : State} {raise : SlotNo → Prop} (h : exec .watch s = .next t) : Moves raise s t := by
  refine moves_request h nofun fun p params he hopen => ?_
  split
  · exact (keeps_refuse (.inl he) _).moves raise
  · next n r hn =>
    split
    · exact (keeps_refuse (.inl he) _).moves raise
    · next howner =>
      split
      · exact (keeps_refuse (.inl he) _).moves raise
      · next hshare =>
        have hopn : r.share = .opn := by cases hs : r.share with
          | priv => exact absurd hs hshare
          | opn => rfl
        exact moves_offer (op := .watch n) (offered_of_granted he hopen
          (fun m hm => by cases hm; exact ⟨r, held_of_namedSlot hn, howner, hopn⟩) nofun) fun _ => id

theorem moves_unwatch {s t : State} {raise : SlotNo → Prop} (h : exec .unwatch s = .next t) : Moves raise s t := by
  refine moves_request h nofun fun p params he hopen => ?_
  split
  · exact (keeps_refuse (.inl he) _).moves raise
  · next n r _ =>
    split
    · exact moves_offer (op := .unwatch n) (offered_of_granted he hopen nofun nofun) fun _ => id
    · exact (keeps_refuse (.inl he) _).moves raise

theorem moves_query {s t : State} {raise : SlotNo → Prop} (h : exec .query s = .next t) : Moves raise s t := by
  refine moves_request h nofun fun p params he hopen => ?_
  split
  · exact (keeps_refuse (.inl he) _).moves raise
  · next n r _ =>
    split
    · exact moves_offer (op := .query n) (offered_of_granted he hopen nofun nofun) fun _ => id
    · exact (keeps_refuse (.inl he) _).moves raise

theorem moves_giveQuota {s t : State} {raise : SlotNo → Prop} (h : exec .giveQuota s = .next t) : Moves raise s t := by
  refine moves_request h nofun fun p params he hopen => ?_
  split
  · exact (keeps_refuse (.inl he) _).moves raise
  · next dest n _ =>
    split
    · next hdest =>
      split
      · exact (keeps_refuse (.inl he) _).moves raise
      · next hne =>
        split
        · exact (keeps_refuse (.inl he) _).moves raise
        · next hroom =>
          dsimp only
          refine Keeps.moves (Keeps.complete ?_ (.inl he) (by rfl) _ _) raise
          have := keeps_quotaMoved (s := s) (p := p) (d := ⟨dest, hdest⟩) (n := n) hne (Nat.not_lt.1 hroom)
          rw [quotaMoved] at this
          rw [State.quota_setQuota_of_ne _ hne]
          exact this
    · exact (keeps_refuse (.inl he) _).moves raise

/-! ## Requests of the timebase -/

theorem moves_takeAuthority {s t : State} {raise : SlotNo → Prop} (h : exec .takeAuthority s = .next t) : Moves raise s t := by
  refine moves_request h nofun fun p params he hopen => ?_
  split
  · have hauth : Keeps s { s with authority := some p } := keeps_authority (holder := some p) fun q hq _ => by cases hq; exact hopen
    exact Keeps.moves (Keeps.complete hauth (.inl he) (by rfl) _ _) raise
  · split
    · exact (keeps_complete (.inl he) _ _).moves raise
    · exact (keeps_complete (.inl he) _ _).moves raise

theorem moves_yieldAuthority {s t : State} {raise : SlotNo → Prop} (h : exec .yieldAuthority s = .next t) : Moves raise s t := by
  refine moves_request h nofun fun p params he hopen => ?_
  split
  · exact Keeps.moves (Keeps.complete (keeps_authority (holder := none) nofun) (.inl he) (by rfl) _ _) raise
  · exact (keeps_refuse (.inl he) _).moves raise

theorem moves_withAuthority {s : State} {α : Type} {p : PortNo} {params : Option α} {k : α → State → State} {raise : SlotNo → Prop}
    (he : s.engine = .granted p) (hk : ∀ a, params = some a → Moves raise s (k a s)) : Moves raise s (s.withAuthority p params k) := by
  unfold State.withAuthority
  split
  · exact (keeps_refuse (.inl he) _).moves raise
  · next a =>
    split
    · exact hk a rfl
    · exact (keeps_refuse (.inl he) _).moves raise

theorem moves_stepTime {s t : State} {raise : SlotNo → Prop} (h : exec .stepTime s = .next t) : Moves raise s t := by
  refine moves_request h nofun fun p params he hopen => moves_withAuthority he fun delta _ => ?_
  split
  · exact (keeps_refuse (.inl he) _).moves raise
  · split
    · exact (keeps_refuse (.inl he) _).moves raise
    · next hrange =>
      dsimp only
      rw [State.openPorts, allPorts, foldl_deliver_eq_copies _ _ ((List.nodup_finRange 4).filter _)]
      refine Keeps.moves
        (Keeps.complete (Keeps.trans (keeps_clock (slew := s.slew) ?_ fun hs => hs) (keeps_copies _ _ _)) (.inl he) (by rfl) _ _) raise
      have : s.time.toNat + delta < 2 ^ 64 := by
        have := Nat.not_lt.1 hrange
        simp only [Config.timeMax] at this; omega
      rw [BitVec.toNat_ofNat, Nat.mod_eq_of_lt this]; omega

theorem moves_slew {s t : State} {raise : SlotNo → Prop} (h : exec .slew s = .next t) : Moves raise s t := by
  refine moves_request h nofun fun p params he hopen => moves_withAuthority he fun a ha => ?_
  obtain ⟨amount, span⟩ := a
  dsimp only
  split
  · exact (keeps_refuse (.inl he) _).moves raise
  · have hrange : amount ≠ 0 ∧ 1 ≤ span ∧ amount.natAbs ≤ span := by
      unfold slewOf at ha
      dsimp only at ha
      split at ha
      · next hr => cases ha; exact hr
      · cases ha
    obtain ⟨hne, hspan, hle⟩ := hrange
    refine Keeps.moves (Keeps.complete (?_ : Keeps s _) (.inl he) (by rfl) _ _) raise
    refine keeps_clock (time := s.time) (Nat.le_refl _) fun _ r hr => ?_
    cases hr
    exact ⟨hne, hle, hspan, Nat.le_refl _, by dsimp only; omega, Nat.le_refl _, hle, mul_self_nonneg _, by simp⟩

theorem moves_cancelSlew {s t : State} {raise : SlotNo → Prop} (h : exec .cancelSlew s = .next t) : Moves raise s t := by
  refine moves_request h nofun fun p params he hopen => moves_withAuthority he fun _ _ => ?_
  split
  · exact (keeps_refuse (.inl he) _).moves raise
  · next r _ => exact Keeps.moves ((keeps_endSlew r s).complete (.inl he) (by rfl) _ _) raise

theorem moves_setDivisor {s t : State} {raise : SlotNo → Prop} (h : exec .setDivisor s = .next t) : Moves raise s t := by
  refine moves_request h nofun fun p params he hopen => moves_withAuthority he fun d hd => ?_
  have hrange : 1 ≤ d ∧ d ≤ 4096 := by
    unfold divisorOf at hd
    dsimp only at hd
    split at hd
    · next hr => cases hd; exact hr
    · cases hd
  exact Keeps.moves ((keeps_pendingDivisor hrange).complete (.inl he) (by rfl) _ _) raise

/-! ## Output lines, sessions and attention -/

theorem moves_claimOutput {s t : State} {raise : SlotNo → Prop} (h : exec .claimOutput s = .next t) : Moves raise s t := by
  refine moves_request h nofun fun p params he hopen => ?_
  split
  · exact (keeps_refuse (.inl he) _).moves raise
  · next line idleLevel _ =>
    have hact (x : OutputLine) (hx : x.claim = some p) (hc : (s.output line).claim = some p ∨ (s.output line).claim = none) :
        s.OutputLaw → ∀ n r a, s.held n = some r → r.action = some a → a.line = line → x.claim = some r.owner := by
      intro hs n r a hr ha hl
      have hclaim := (outputLaw_iff.1 hs).1 n r a hr ha
      rw [hl] at hclaim
      obtain hc | hc := hc
      · exact hx.trans (hc.symm.trans hclaim)
      · exact absurd (hc.symm.trans hclaim) nofun
    have hclaim (x : OutputLine) (hx : x.claim = some p) :
        ∀ q, x.claim = some q → (s.output line).claim ≠ some q → s.DetachedLaw → (s.port q).session = .opened := by
      intro q hq _ _
      cases hx.symm.trans hq; exact hopen
    dsimp only
    split
    · next q hq =>
      split
      · next hqp =>
        have hq : (s.output line).claim = some p := hqp ▸ hq
        refine Keeps.moves (Keeps.complete (?_ : Keeps s _) (.inl he) (by rfl) _ _) raise
        exact keeps_setOutput (hact _ hq (.inl hq)) (fun _ h => absurd (hq.symm.trans h) nofun) (hclaim _ hq)
      · exact (keeps_complete (.inl he) _ _).moves raise
    · next hnone =>
      refine Keeps.moves (Keeps.complete (?_ : Keeps s _) (.inl he) (by rfl) _ _) raise
      exact keeps_setOutput (hact _ rfl (.inr hnone)) (fun _ h => absurd h (by simp)) (hclaim _ rfl)

theorem moves_driveOutput {s t : State} {raise : SlotNo → Prop} (h : exec .driveOutput s = .next t) : Moves raise s t := by
  refine moves_request h nofun fun p params he hopen => ?_
  split
  · exact (keeps_refuse (.inl he) _).moves raise
  · next line level _ =>
    dsimp only
    split
    · next hc =>
      refine Keeps.moves (Keeps.complete (?_ : Keeps s _) (.inl he) (by rfl) _ _) raise
      refine keeps_setOutput (fun hs n r a hr ha hl => ?_) (fun _ h => absurd (hc.symm.trans h) nofun) fun q hq hq' => absurd hq hq'
      rw [← hl]; exact (outputLaw_iff.1 hs).1 n r a hr ha
    · exact (keeps_refuse (.inl he) _).moves raise

/-- A line that no action of its claimant names goes to its idle level and is FREE (R119, R164). -/
theorem keeps_outputFree {s : State} {l : LineNo}
    (hact : s.OutputLaw → ∀ n r a, s.held n = some r → r.action = some a → a.line ≠ l) :
    Keeps s (s.setOutput l (s.output l).free) :=
  keeps_setOutput (fun hs n r a hr ha hl => absurd hl (hact hs n r a hr ha)) (fun _ _ => rfl) nofun

theorem moves_releaseOutput {s t : State} {raise : SlotNo → Prop} (h : exec .releaseOutput s = .next t) : Moves raise s t := by
  refine moves_request h nofun fun p params he hopen => ?_
  split
  · exact (keeps_refuse (.inl he) _).moves raise
  · next line _ =>
    dsimp only
    split
    · exact (keeps_refuse (.inl he) _).moves raise
    · next hc =>
      split
      · exact (keeps_refuse (.inl he) _).moves raise
      · next hnames =>
        refine Keeps.moves (Keeps.complete (keeps_outputFree fun hs n r a hr ha hl => hnames ?_) (.inl he) (by rfl) _ _) raise
        have howner := (outputLaw_iff.1 hs).1 n r a hr ha
        rw [hl, not_not.1 hc] at howner
        refine List.any_eq_true.2 ⟨n, List.mem_finRange n, ?_⟩
        rw [hr]; cases howner; simp [ha, hl]

theorem moves_openSession {s t : State} {raise : SlotNo → Prop} (h : exec .openSession s = .next t) : Moves raise s t := by
  refine moves_live h fun _ => moves_serve fun p _ he _ _ => ?_
  dsimp only
  split
  · next hd =>
    refine Keeps.moves (Keeps.complete (keeps_setPort ?_) (.inl he) (by rfl) _ _) raise
    refine { PortStep.refl s.rstn (s.port p) with session := .inr ⟨hd, rfl⟩, request := fun hx => ?_ }
    obtain ⟨hpending, hmark, hfetch⟩ := hx
    refine ⟨fun hp => ⟨rfl, (hpending hp).2⟩, hmark, hfetch⟩
  · exact (keeps_complete (.inl he) _ _).moves raise
  · exact (keeps_complete (.inl he) _ _).moves raise

theorem moves_setAttention {s t : State} {raise : SlotNo → Prop} (h : exec .setAttention s = .next t) : Moves raise s t := by
  refine moves_request h nofun fun p params he hopen => ?_
  split
  · exact (keeps_refuse (.inl he) _).moves raise
  · exact Keeps.moves (Keeps.complete (keeps_setPort (portStep_notices ..)) (.inl he) (by rfl) _ _) raise

end Sys2Proof.Claims
end

section
/-! SUPPORT. Teardowns, the application of a record to a slot, and firings, as the laws see them. -/

namespace Sys2Proof.Claims

open Sys2Proof.Machine

/-! ## Teardowns -/

/-- The engine has a teardown in hand (R164). -/
def InTeardown (s : State) : Prop := ∃ p close released lines on, s.engine = .teardown p close released lines on

theorem keeps_teardownOp {s : State} {p : PortNo} {n : SlotNo} (hw : s.waitsFor (some n) = none)
    (hwatch : watchWaits s.engine = none) : Keeps s (s.teardownOp p n).1 := by
  obtain ⟨hfiring, hi⟩ := ready_of_waitsFor hw
  unfold State.teardownOp
  split
  · next r hr =>
    split
    · exact keeps_unwatched p hr
    · exact keeps_release hr hfiring hi hwatch
  · exact .refl s

/-- Each operation of a teardown keeps the laws, and the last finds a port that holds nothing (R160, R164). -/
theorem keeps_teardownStep {s : State} (h : InTeardown s) : Keeps s s.teardownStep := by
  obtain ⟨p, close, released, lines, on, he⟩ := h
  obtain ⟨-, hstep⟩ | ⟨hauth, hcases⟩ := State.teardownStep_cases he
  · rw [hstep]
    exact (keeps_authority (holder := none) nofun).trans (keeps_teardownEngine (s := { s with authority := none }) he _ _ _)
  · obtain ⟨n, -, hn⟩ | ⟨hnone, hlines⟩ := hcases
    · obtain ⟨w, -, hstep⟩ | ⟨hw, hstep⟩ := hn
      · rw [hstep]; exact keeps_teardownEngine he _ _ _
      · rw [hstep]
        exact (keeps_teardownOp hw (by rw [he]; rfl)).trans
          (keeps_teardownEngine ((engine_teardownOp s p n).trans he) _ _ _)
    · have hslots := State.teardownSlot_none hnone
      obtain ⟨l, hl, hstep⟩ | ⟨hl, hstep⟩ := hlines
      · rw [hstep]
        refine Keeps.trans (keeps_outputFree fun hs n r a hr ha hal => ?_)
          (keeps_teardownEngine (s := s.setOutput l (s.output l).free) he _ _ _)
        have hclaim : (s.output l).claim = some p := by
          have := List.mem_of_mem_head? hl
          simpa [State.claimedLines, allLines] using this
        have howner := (outputLaw_iff.1 hs).1 n r a hr ha
        rw [hal, hclaim] at howner
        have hne := (hslots n).2
        rw [owns_eq, hr] at hne
        cases howner; simp at hne
      · rw [hstep]
        refine keeps_endTeardown he ⟨fun n => (hslots n).symm, fun l hc => ?_, hauth⟩
        have : l ∈ s.claimedLines p := by simp [State.claimedLines, allLines, hc]
        rw [hl] at this; cases this

theorem keeps_runTeardown (ops : Nat) {s : State} (h : InTeardown s) : Keeps s (State.runTeardown ops s) := by
  induction ops generalizing s with
  | zero => exact .refl s
  | succ ops ih =>
    obtain ⟨⟨p, close, released, lines, he⟩, hrun⟩ | ⟨-, hrun⟩ := State.runTeardown_succ ops s
    · rw [hrun]; exact (keeps_teardownStep h).trans (ih ⟨p, close, released, lines, none, he⟩)
    · rw [hrun]; exact keeps_teardownStep h

/-! ## The application of a record -/

theorem keeps_insert_line {s : State} {i : Insertion} (hf : Fits s i) (hc : i.client = .lineMonitor) (hi : s.insertion = none) :
    Keeps s (s.insert i) := by
  obtain ⟨-, h⟩ | ⟨-, h⟩ := State.insert_cases i s
  · rw [h]; exact keeps_finishInsert_line hf hc (.inl hi)
  · rw [h]; exact keeps_inFlight hf hi (by simp [armer, hc])

theorem keeps_deliverAll (n : Notice) (r : Reservation) (s : State) : Keeps s (s.deliverAll n r) := by
  rw [State.deliverAll, deliverWatchers_eq_copies, deliver_eq_copies]
  exact (keeps_copies _ _ _).trans (keeps_copies _ _ _)

theorem keeps_applyGated {s : State} {rec : EdgeRecord} {n : SlotNo} {r : Reservation} {line : LineNo} {active : Level}
    {period : Option Word} {limit : Half} (hm : r.mode = .gated line active period limit) (hr : s.held n = some r)
    (hfiring : s.isFiring n = false) (hi : s.insertion = none) : Keeps s (s.applyGated rec n r active) := by
  unfold State.applyGated
  split
  · next remaining _ hrun _ =>
    refine keeps_insert_line (fits_of_held hr (by rw [hrun]; rfl) (by rw [hrun]; rfl) nofun (by rw [hm]; rfl) fun hlaw => ?_) rfl hi
    obtain ⟨-, -, hb⟩ := hlaw
    rw [hrun] at hb; exact hb
  · next deadline w hrun _ =>
    refine (keeps_remove hr hfiring hi rfl rfl rfl fun hlaw => ?_).trans (keeps_applicationDone _)
    obtain ⟨hrange, -, hb⟩ := hlaw
    rw [hrun] at hb
    exact ⟨hrange, by rw [hm]; rfl, hb⟩
  · exact keeps_applicationDone s

theorem held_remove (s : State) (n : SlotNo) (r : Reservation) (run : Run) : (s.remove n r run).held n = some { r with run } :=
  State.held_setHeld_self ..

theorem keeps_startTriggered {s : State} {rec : EdgeRecord} {n : SlotNo} {r : Reservation} {delay : Word}
    (hm : Run.suits r.mode .waiting = true ∧ r.mode.isWindow = false) (hr : s.held n = some r) (hfiring : s.isFiring n = false)
    (hi : s.insertion = none) : Keeps s (s.startTriggered rec n r delay) :=
  (keeps_remove (r' := { r with fireCount := 0 }) hr hfiring hi rfl rfl rfl fun hlaw => ⟨hlaw.1, hm.1, trivial⟩).trans
    (keeps_insert_line (fits_of_held (held_remove ..) rfl rfl nofun hm.2.symm fun _ => belowLimit_zero rfl) rfl hi)

theorem keeps_applyTriggered {s : State} {rec : EdgeRecord} {n : SlotNo} {r : Reservation} {line : LineNo} {edge : TriggerEdge}
    {delay : Word} {period : Option Word} {limit : Half} {restart rewait : Bool}
    (hm : r.mode = .triggered line edge delay period limit restart rewait) (hr : s.held n = some r)
    (hfiring : s.isFiring n = false) (hi : s.insertion = none) : Keeps s (s.applyTriggered rec n r edge delay restart) := by
  have hstart := keeps_startTriggered (rec := rec) (delay := delay) (by rw [hm]; exact ⟨rfl, rfl⟩) hr hfiring hi
  unfold State.applyTriggered
  split
  · split
    · exact hstart
    · exact hstart
    · exact keeps_applicationDone s
  · exact keeps_applicationDone s

/-- A window is opened for a slot that is neither ARMED nor FIRING (R55, R56). -/
theorem keeps_openWindow {s : State} {rec : EdgeRecord} {n : SlotNo} {r : Reservation} {limit : Word}
    (hm : r.mode.isWindow = true ∧ r.mode.repeatLimit = 0) (hr : s.held n = some r) (hfiring : r.run.isFiring = false)
    (harmed : r.run.armedDeadline = none) (hi : s.insertion = none) : Keeps s (s.openWindow rec n limit) :=
  keeps_insert_line (fits_of_held hr harmed hfiring nofun hm.1.symm fun _ h => absurd hm.2 h) rfl hi

theorem held_reportWindow (rec : EdgeRecord) (n m : SlotNo) (r : Reservation) (kind : NoticeKind) (wanted : Bool) (start : TimeCount)
    (rewait : Bool) (s : State) : (s.reportWindow rec n r kind wanted start rewait).held m = s.held m ∧
      (s.reportWindow rec n r kind wanted start rewait).insertion = s.insertion := by
  unfold State.reportWindow
  split
  · obtain ⟨ports, h⟩ := State.deliverAll_frame (Notice.window kind n (s.slot n).generation r rec start (!rewait)) r s
    rw [h]; exact ⟨rfl, rfl⟩
  · exact ⟨rfl, rfl⟩

theorem keeps_reportWindow (rec : EdgeRecord) (n : SlotNo) (r : Reservation) (kind : NoticeKind) (wanted : Bool) (start : TimeCount)
    (rewait : Bool) (s : State) : Keeps s (s.reportWindow rec n r kind wanted start rewait) := by
  unfold State.reportWindow
  split
  · exact keeps_deliverAll _ _ _
  · exact .refl s

/-- A window slot that waits, or stops, is lawful (R55). -/
theorem law_windowEnded {r : Reservation} {rewait : Bool} (hm : Run.suits r.mode .waiting = true) (h : r.Law) :
    Reservation.Law { r with run := if rewait then .waiting else .idle } := by
  cases rewait
  · exact ⟨h.1, rfl, trivial⟩
  · exact ⟨h.1, hm, trivial⟩

theorem keeps_endWindow {s : State} {n : SlotNo} {r : Reservation} {rewait again : Bool} (hm : Run.suits r.mode .waiting = true)
    (hr : s.held n = some r) (hfiring : s.isFiring n = false) (hi : s.insertion = none) :
    Keeps s (s.endWindow n r rewait again) := by
  unfold State.endWindow
  split
  · exact .refl s
  · exact keeps_remove hr hfiring hi rfl (by cases rewait <;> rfl) (by cases rewait <;> rfl) (law_windowEnded hm)

/-- The slot of a window that closes is out of the queue (R55). -/
theorem held_endWindow {s : State} {n : SlotNo} {r : Reservation} (rewait again : Bool) (hr : s.held n = some r) :
    ∃ run : Run, (s.endWindow n r rewait again).held n = some { r with run } ∧ run.isFiring = false ∧ run.armedDeadline = none ∧
      (s.endWindow n r rewait again).insertion = s.insertion := by
  unfold State.endWindow
  split
  · next w hrun => exact ⟨.lapsed w, by rw [hr, ← hrun], rfl, rfl, rfl⟩
  · exact ⟨_, held_remove .., by cases rewait <;> rfl, by cases rewait <;> rfl, rfl⟩

theorem keeps_closeWindow {s : State} {rec : EdgeRecord} {n : SlotNo} {r : Reservation} {kind : NoticeKind} {wanted : Bool}
    {start : TimeCount} {rewait reopen : Bool} {limit : Word}
    (hm : Run.suits r.mode .waiting = true ∧ r.mode.isWindow = true ∧ r.mode.repeatLimit = 0) (hr : s.held n = some r)
    (hfiring : s.isFiring n = false) (hi : s.insertion = none) :
    Keeps s (s.closeWindow rec n r kind wanted start rewait reopen limit) := by
  have hended (again : Bool) : Keeps s ((s.endWindow n r rewait again).reportWindow rec n r kind wanted start rewait) :=
    (keeps_endWindow hm.1 hr hfiring hi).trans (keeps_reportWindow ..)
  unfold State.closeWindow
  dsimp only
  split
  · obtain ⟨run, hheld, hrun, harmed, hins⟩ := held_endWindow rewait (reopen && rewait) hr
    obtain ⟨hheld', hins'⟩ := held_reportWindow rec n n r kind wanted start rewait (s.endWindow n r rewait (reopen && rewait))
    exact (hended _).trans (keeps_openWindow (r := { r with run }) hm.2 (hheld'.trans hheld) hrun harmed (hins'.trans (hins.trans hi)))
  · exact (hended _).trans (keeps_applicationDone _)

theorem keeps_applyWindow {s : State} {rec : EdgeRecord} {n : SlotNo} {r : Reservation} {line : LineNo}
    {startEdge endEdge : Direction} {limit : Word} {report : ReportSet} {rewait : Bool}
    (hm : r.mode = .window line startEdge endEdge limit report rewait) (hr : s.held n = some r) (hfiring : s.isFiring n = false)
    (hi : s.insertion = none) : Keeps s (s.applyWindow rec n r startEdge endEdge limit report rewait) := by
  have hm : Run.suits r.mode .waiting = true ∧ r.mode.isWindow = true ∧ r.mode.repeatLimit = 0 := by rw [hm]; exact ⟨rfl, rfl, rfl⟩
  unfold State.applyWindow
  dsimp only
  split
  · next h => exact keeps_openWindow hm.2 hr (by rw [h.2]; rfl) (by rw [h.2]; rfl) hi
  · split
    · split
      · exact keeps_closeWindow hm hr hfiring hi
      · exact keeps_closeWindow hm hr hfiring hi
      · exact keeps_applicationDone s
    · exact keeps_applicationDone s

theorem keeps_applyRecord {s : State} {rec : EdgeRecord} {n : SlotNo} (hw : s.waitsFor (some n) = none) :
    Keeps s (s.applyRecord rec n) := by
  obtain ⟨hfiring, hi⟩ := ready_of_waitsFor hw
  unfold State.applyRecord
  split
  · exact keeps_applicationDone s
  · next r hr =>
    split
    · next hm => exact keeps_applyGated hm hr hfiring hi
    · next hm _ => exact keeps_applyTriggered hm hr hfiring hi
    · next hm _ => exact keeps_applyWindow hm hr hfiring hi
    · exact keeps_applicationDone s

theorem keeps_goOn (early : Nat) (s : State) : Keeps s (s.goOn early) := by
  refine Keeps.trans ?_ (keeps_leaveIfApplied early _)
  unfold State.offerApplication
  split
  · split
    · exact .refl s
    · exact keeps_monitor _ _
    · next hw => exact keeps_applyRecord hw
  · exact .refl s

/-! ## Firings -/

theorem keeps_foldl_deliver (n : PortNo → Notice) (ps : List PortNo) (s : State) :
    Keeps s (ps.foldl (fun s q => s.deliver (n q) q) s) := by
  induction ps generalizing s with
  | nil => exact .refl s
  | cons p ps ih =>
    refine Keeps.trans ?_ (ih _)
    dsimp only
    rw [deliver_eq_copies]; exact keeps_copies _ _ _

theorem keeps_deliverCopies (ports : BitVec 4) (s : State) : Keeps s (s.deliverCopies ports) := by
  unfold State.deliverCopies
  split
  · next f hf =>
    split
    · exact Keeps.trans (keeps_firing (by rw [hf]; rfl)) (keeps_foldl_deliver _ _ _)
    · exact .refl s
  · exact .refl s

theorem keeps_applyAction (s : State) : Keeps s s.applyAction := by
  unfold State.applyAction
  split
  · next f hf =>
    split
    · next a ha =>
      split
      · obtain ⟨r, hr, ha⟩ := Option.bind_eq_some_iff.1 ha
        refine Keeps.trans (keeps_firing (firing := some { f with actionDue := false }) (by rw [hf]; rfl))
          (keeps_setOutput (fun hs n x b hx hb hl => ?_) (fun hs hc => ?_) fun q hq hq' => absurd hq hq')
        · rw [← hl]; exact (outputLaw_iff.1 hs).1 n x b hx hb
        · exact absurd (hc.symm.trans ((outputLaw_iff.1 hs).1 _ r a hr ha)) nofun
      · exact .refl s
    · exact .refl s
  · exact .refl s

theorem keeps_carryFiring (upTo : FiringStage) (s : State) : Keeps s (s.carryFiring upTo) := by
  have hall (s : State) : Keeps s s.notifyAndAct := (keeps_deliverCopies _ s).trans (keeps_applyAction _)
  unfold State.carryFiring
  split
  · split
    · exact hall s
    · exact keeps_deliverCopies _ s
  · exact hall s

/-- A settling's insertion is of a run that is not FINAL. -/
theorem settlement_insert {s : State} {f : FiringRecord} {r : Reservation} {d : TimeCount} (h : s.settlement f r = .insert d) :
    f.final = false ∧ r.mode.isWindow = false := by
  unfold State.settlement at h
  cases hm : r.mode with
  | oneShot => simp [hm] at h
  | window => simp [hm] at h
  | periodic => cases hf : f.final <;> simp [hm, hf] at h; exact ⟨rfl, rfl⟩
  | gated => cases hf : f.final <;> simp [hm, hf] at h; exact ⟨rfl, rfl⟩
  | triggered => cases hf : f.final <;> simp [hm, hf] at h; exact ⟨rfl, rfl⟩

/-- A settling without an insertion leaves a run out of the queue that suits the mode; a PAUSED one is not FINAL (R59). -/
theorem settlement_leave {s : State} {f : FiringRecord} {r : Reservation} {run : Run} (h : s.settlement f r = .leave run) :
    run.isFiring = false ∧ run.armedDeadline = none ∧ run.suits r.mode = true ∧ (∀ w, run = .paused w → f.final = false) := by
  have hidle : Run.isFiring .idle = false ∧ Run.armedDeadline .idle = none ∧ Run.suits r.mode .idle = true ∧
    (∀ w, Run.idle = .paused w → f.final = false) := ⟨rfl, rfl, rfl, nofun⟩
  have hagain (h : f.again = .leave run) : run = .idle := by
    unfold FiringRecord.again at h; split at h <;> cases h; rfl
  unfold State.settlement at h
  split at h
  · cases h; exact hidle
  · split at h
    · cases h; exact hidle
    · cases hagain h; exact hidle
  · next hm =>
    split at h
    · cases h; exact hidle
    · next hf =>
      split at h
      · cases hagain h; exact hidle
      · cases h; exact ⟨rfl, rfl, by rw [hm]; rfl, fun _ _ => by simpa using hf⟩
  · next rewait hm =>
    split at h
    · cases h; cases rewait
      · exact hidle
      · exact ⟨rfl, rfl, by rw [hm]; rfl, nofun⟩
    · cases hagain h; exact hidle
  · next hm =>
    cases h
    split
    · exact ⟨rfl, rfl, by rw [hm]; rfl, nofun⟩
    · exact ⟨rfl, rfl, by rw [hm]; rfl, nofun⟩

/-- A firing that is not FINAL leaves the fire count below the repeat limit (R58, R70). -/
theorem lt_repeatLimit_of_not_final {m : Mode} {count : Nat} (h : m.isFinal count = false) (hw : m.isWindow = false)
    (hne : m.repeatLimit ≠ 0) : count < m.repeatLimit := by
  have periodic (p : Option Word) (n : Half)
      (h : (match p with | none => true | some _ => decide (n.toNat ≠ 0 ∧ n.toNat ≤ count)) = false) (hne : n.toNat ≠ 0) :
      count < n.toNat := by
    cases p with
    | none => cases h
    | some p =>
      have := of_decide_eq_false h
      omega
  cases m with
  | oneShot => cases h
  | window => cases hw
  | periodic p n => exact periodic (some p) n h hne
  | gated _ _ p n => exact periodic p n h hne
  | triggered _ _ _ p n => exact periodic p n h hne

theorem keeps_settle {s : State} (hi : s.insertion = none) : Keeps s s.settle := by
  unfold State.settle
  split
  · next f hf =>
    have hslot : s.firing.map (·.slot) = some f.slot := by rw [hf]; rfl
    split
    · next r hr =>
      have hrun (hs : s.RunLaw) : r.Law ∧ f.final = r.mode.isFinal f.fireCount.toNat := by
        obtain ⟨slots, firing, -, -⟩ := runShape_iff.2 hs
        obtain ⟨r', hr', -, hfinal⟩ := firing (firingCore f) (by rw [hf]; rfl)
        cases hr.symm.trans hr'
        exact ⟨slots _ r hr, hfinal⟩
      dsimp only
      split
      · next d hset =>
        obtain ⟨hfinal, hwindow⟩ := settlement_insert hset
        have hbelow (hs : s.RunLaw) : Reservation.belowLimit { r with fireCount := f.fireCount } :=
          lt_repeatLimit_of_not_final ((hrun hs).2.symm.trans hfinal) hwindow
        have hlaw (hs : s.RunLaw) : Reservation.Law { r with fireCount := f.fireCount } := by
          refine ⟨(hrun hs).1.1, (hrun hs).1.2.1, ?_⟩
          dsimp only
          split
          · exact hbelow hs
          · exact hbelow hs
          · exact hbelow hs
          · trivial
        refine (keeps_fireCount f.fireCount hr hi hlaw).trans ?_
        have hfits : Fits (s.setHeld f.slot { r with fireCount := f.fireCount })
            { slot := f.slot, deadline := d, windowStart := none, client := .dispatch } :=
          fits_of_firing (State.held_setHeld_self ..) hslot rfl fun hs => ⟨hwindow.symm, ?_⟩
        · obtain ⟨-, h⟩ | ⟨-, h⟩ := State.insert_cases _ (s.setHeld f.slot { r with fireCount := f.fireCount })
          · rw [h]; exact keeps_finishInsert_firing hfits rfl (.inl hi)
          · rw [h]; exact keeps_inFlight hfits hi rfl
        · obtain ⟨-, firing, -, -⟩ := runShape_iff.2 hs
          obtain ⟨r', hr', -, hf'⟩ := firing (firingCore f) (congrArg (Option.map firingCore) hf)
          have hr'' := (State.held_setHeld_self s f.slot { r with fireCount := f.fireCount }).symm.trans hr'
          cases hr''
          exact lt_repeatLimit_of_not_final (hf'.symm.trans hfinal) hwindow
      · next run hset =>
        obtain ⟨hfiring, harmed, hsuits, hpaused⟩ := settlement_leave hset
        refine keeps_leaveFiring hr hslot hi rfl hfiring harmed fun hs => ⟨(hrun hs).1.1, hsuits, ?_⟩
        dsimp only
        split
        · cases harmed
        · next w =>
          refine lt_repeatLimit_of_not_final ((hrun hs).2.symm.trans (hpaused w rfl)) ?_
          have hgated : r.mode.isGated = true := hsuits
          revert hgated; cases r.mode <;> simp [Mode.isGated, Mode.isWindow]
        · cases hfiring
        · trivial
    · next hr => exact keeps_endFiring_of_free hr hslot
  · exact .refl s

end Sys2Proof.Claims
end

section
/-! SUPPORT. Every row of the table as the laws see it, device reset, and with them the statements about what every step keeps: O2, O50 to
O55, O57, O58, O59 and O60. -/

namespace Sys2Proof.Claims

open Sys2Proof.Machine

/-! ## Link transactions -/

theorem portStep_link {rstn : Bool} {x : HostPort} {t : Transaction} (hx : x.link = .selected t) (link : Link) (hl : link ≠ .inert) :
    (x.link = .inert ↔ rstn = true ∨ x.prstn = true) → (link = .inert ↔ rstn = true ∨ x.prstn = true) := fun h => by
  rw [hx] at h
  exact iff_of_false hl fun hr => absurd (h.2 hr) nofun

theorem portStep_submit {rstn : Bool} {x : HostPort} (f : Frame) (hx : x.link = .selected .opened) : PortStep rstn x (x.submit f) := by
  have hanswer := portStep_answer [x.submitStatus.code] (.refl rstn x) hx rfl
  unfold HostPort.submit
  dsimp only
  split
  · next haccepted =>
    have hidle : x.teardownPending = false ∧ x.request = .idle := by
      unfold HostPort.submitStatus at haccepted
      split at haccepted
      · cases haccepted
      · next h =>
        refine ⟨by simpa using (not_or.1 h).2, ?_⟩
        split at haccepted <;> first | assumption | cases haccepted
    refine ⟨.inl rfl, fun _ => by rw [hidle.2]; rfl, fun hlaw => ?_, hanswer.link⟩
    refine ⟨fun h => absurd (hidle.1.symm.trans h) nofun, fun h => ?_, nofun⟩
    have := hlaw.2.1 h
    rw [hidle.2] at this; cases this
  · exact hanswer

theorem portStep_fetch {rstn : Bool} {x : HostPort} (hx : x.link = .selected .opened) :
    PortStep rstn x (match x.request with
      | .done r => { x with link := .selected (.fetching (LinkStatus.done.code :: r.bytes)) }
      | .queued _ => x.answer [LinkStatus.notReady.code]
      | .executing _ => x.answer [LinkStatus.notReady.code]
      | .idle => x.answer [LinkStatus.nothing.code]) := by
  split
  · next r hr =>
    exact { PortStep.refl rstn x with
      request := fun hlaw => ⟨hlaw.1, hlaw.2.1, fun _ _ => by rw [hr]; rfl⟩
      link := portStep_link hx _ nofun }
  · exact portStep_answer _ (.refl rstn x) hx rfl
  · exact portStep_answer _ (.refl rstn x) hx rfl
  · exact portStep_answer _ (.refl rstn x) hx rfl

theorem portStep_fetchEnd {rstn : Bool} {x : HostPort} {reply : List Byte} (hx : x.link = .selected (.fetching reply)) :
    PortStep rstn x { x.answer reply with request := .idle } := by
  have hdone (hlaw : x.RequestLaw) : x.request.isExecuting = false := by
    have := hlaw.2.2 reply hx
    cases hr : x.request <;> rw [hr] at this <;> first | rfl | cases this
  exact { PortStep.refl rstn x with
    executing := fun hlaw => (hdone hlaw).symm
    request := fun hlaw => ⟨fun h => ⟨(hlaw.1 h).1, rfl⟩, fun h => absurd ((hdone hlaw).symm.trans (hlaw.2.1 h)) nofun, nofun⟩
    link := portStep_link hx _ nofun }

/-- The row of a link transaction. -/
theorem moves_transaction {s t : State} {p : PortNo} {k : HostPort → HostPort} {raise : SlotNo → Prop}
    (h : s.live (State.takeTransaction p k) = .next t)
    (hk : ∀ x : HostPort, x.link = .selected .opened → PortStep s.rstn x (k x)) : Moves raise s t :=
  moves_live h fun _ => (keeps_takeTransaction p k s hk).moves raise

theorem moves_submit {s t : State} {p : PortNo} {bytes : List Byte} {raise : SlotNo → Prop} (h : exec (.submit p bytes) s = .next t) :
    Moves raise s t := by
  refine moves_transaction h fun x hx => ?_
  split
  · exact portStep_submit _ hx
  · exact portStep_answer _ (.refl _ x) hx rfl

theorem moves_ack {s t : State} {p : PortNo} {seq : Byte × Byte} {raise : SlotNo → Prop} (h : exec (.ack p seq) s = .next t) :
    Moves raise s t := by
  refine moves_transaction h fun x hx => ?_
  split
  · exact portStep_answer _ (portStep_notices ..) hx rfl
  · exact portStep_answer _ (.refl _ x) hx rfl

theorem moves_time {s t : State} {p : PortNo} {raise : SlotNo → Prop} (h : exec (.time p) s = .next t) : Moves raise s t := by
  refine moves_transaction (raise := raise) h fun x hx => ?_
  obtain ⟨session, executing, request, link⟩ := portStep_answer _ (PortStep.refl s.rstn x) hx rfl
  exact ⟨session, executing, request, link⟩

theorem moves_fetchEnd {s t : State} {p : PortNo} {raise : SlotNo → Prop} (h : execFetchEnd p s = .next t) : Moves raise s t := by
  unfold execFetchEnd at h
  refine moves_live h fun _ => ?_
  split
  · next hl => exact (keeps_setPort (portStep_fetchEnd hl)).moves raise
  · exact (Keeps.refl s).moves raise

theorem moves_doNothing {s t : State} {p : PortNo} {selector : Byte} {raise : SlotNo → Prop}
    (h : execDoNothingTransaction p selector s = .next t) : Moves raise s t := by
  unfold execDoNothingTransaction at h
  refine moves_live h fun _ => ?_
  split
  · exact (Keeps.refl s).moves raise
  · exact (keeps_takeTransaction p _ s fun x hx => portStep_answer _ (.refl _ x) hx rfl).moves raise

/-! ## Pins -/

theorem keeps_chipSelectAssertion (s : State) (p : PortNo) :
    Keeps s (s.setPort p { s.port p with
      chipSelect := true
      link := if (s.port p).link = .idle ∧ !(s.port p).chipSelect ∧ !s.rstn then .selected .opened else (s.port p).link }) := by
  refine keeps_setPort ?_
  split
  · next h => exact { PortStep.refl s.rstn (s.port p) with
      request := fun hlaw => ⟨hlaw.1, hlaw.2.1, nofun⟩
      link := fun hlink => iff_of_false nofun fun hr => absurd (h.1.symm.trans (hlink.2 hr)) nofun }
  · exact { PortStep.refl s.rstn (s.port p) with }

theorem keeps_chipSelectNegation (s : State) (p : PortNo) :
    Keeps s (s.setPort p { s.port p with chipSelect := false, link := (s.port p).link.negated }) := by
  refine keeps_setPort ?_
  cases hl : (s.port p).link with
  | inert => exact { PortStep.refl s.rstn (s.port p) with
      request := fun hlaw => ⟨hlaw.1, hlaw.2.1, nofun⟩, link := fun hlink => by rw [hl] at hlink; exact hlink }
  | idle => exact { PortStep.refl s.rstn (s.port p) with
      request := fun hlaw => ⟨hlaw.1, hlaw.2.1, nofun⟩, link := fun hlink => by rw [hl] at hlink; exact hlink }
  | selected t => exact { PortStep.refl s.rstn (s.port p) with
      request := fun hlaw => ⟨hlaw.1, hlaw.2.1, nofun⟩, link := portStep_link hl _ nofun }

/-- PRSTn's effect on a port that is not in device reset (R147, R166). -/
theorem portStep_portReset (x : HostPort) : PortStep false x { x.portReset with prstn := true, link := .inert } := by
  have hlink : (Link.inert = .inert ↔ false = true ∨ true = true) := iff_of_true rfl (.inr rfl)
  have hnot (hx : x.request.isExecuting = false) (hlaw : x.RequestLaw) : x.resetMark = true → False := fun h =>
    absurd (hx.symm.trans (hlaw.2.1 h)) nofun
  unfold HostPort.portReset
  split
  · next f hf =>
    exact ⟨.inl rfl, fun _ => rfl, fun hlaw => ⟨fun h => hlaw.1 h, fun _ => by rw [hf]; rfl, nofun⟩, fun _ => hlink⟩
  · next hne =>
    have hx : x.request.isExecuting = false := by
      cases hr : x.request <;> first | rfl | exact absurd hr (hne _)
    split
    · next ho =>
      exact ⟨.inl rfl, fun _ => hx.symm, fun hlaw => ⟨fun _ => ⟨ho, rfl⟩, fun h => (hnot hx hlaw h).elim, nofun⟩,
        fun _ => hlink⟩
    · exact ⟨.inl rfl, fun _ => hx.symm,
        fun hlaw => ⟨fun h => ⟨(hlaw.1 h).1, rfl⟩, fun h => (hnot hx hlaw h).elim, nofun⟩,
        fun _ => hlink⟩
    · exact ⟨.inl rfl, fun _ => rfl, fun hlaw => ⟨hlaw.1, hlaw.2.1, nofun⟩, fun _ => hlink⟩

theorem moves_prstnAssert {s t : State} {p : PortNo} {raise : SlotNo → Prop} (h : exec (.prstnAssert p) s = .next t) :
    Moves raise s t := by
  change Host.Outcome.next _ = _ at h
  cases h
  split
  · next hr =>
    refine (keeps_setPort ?_).moves raise
    exact { PortStep.refl s.rstn (s.port p) with link := fun hl => hl.trans (iff_of_true (.inl hr) (.inl hr)) }
  · next hr =>
    split
    · exact (Keeps.refl s).moves raise
    · refine (keeps_setPort ?_).moves raise
      rw [Bool.eq_false_iff.2 hr]; exact portStep_portReset _

theorem moves_prstnRelease {s t : State} {p : PortNo} {raise : SlotNo → Prop} (h : exec (.prstnRelease p) s = .next t) :
    Moves raise s t := by
  change Host.Outcome.next _ = _ at h
  cases h
  split
  · next hr =>
    refine (keeps_setPort ?_).moves raise
    exact { PortStep.refl s.rstn (s.port p) with link := fun hl => hl.trans (iff_of_true (.inl hr) (.inl hr)) }
  · next hr =>
    split
    · refine (keeps_setPort ?_).moves raise
      refine { PortStep.refl s.rstn (s.port p) with
               request := fun hlaw => ⟨hlaw.1, hlaw.2.1, fun _ h => absurd h (by simp)⟩, link := fun _ => ?_ }
      exact iff_of_false (by simp) (by simpa using hr)
    · exact (Keeps.refl s).moves raise

/-! ## The engine, the Line Monitor and the Dispatch Unit -/

theorem moves_closeSession {s t : State} {pause : Option Nat} {raise : SlotNo → Prop} (h : exec (.closeSession pause) s = .next t) :
    Moves raise s t :=
  moves_request h nofun fun p _ he _ =>
    ((keeps_beginTeardown_close he).trans (keeps_runTeardown _ ⟨p, true, 0, 0, none, rfl⟩)).moves raise

theorem moves_portArbiterGrant {s t : State} {pause : Option Nat} {raise : SlotNo → Prop}
    (h : execPortArbiterGrant pause s = .next t) : Moves raise s t := by
  unfold execPortArbiterGrant at h
  refine moves_live h fun _ => ?_
  split
  · next p hfree _ =>
    dsimp only
    split
    · next f hf =>
      have hgrant := keeps_granted (p + 1) hfree hf
      split
      · exact (hgrant.trans (keeps_refuse (.inl rfl) _)).moves raise
      · exact hgrant.moves raise
    · exact ((keeps_beginTeardown_pending (p := p) (p + 1) hfree).trans
        (keeps_runTeardown _ ⟨p, false, 0, 0, none, rfl⟩)).moves raise
  · exact (Keeps.refl s).moves raise

/-- The slots whose generation the engine's second stage may raise. -/
def waitingRaises (s : State) (n : SlotNo) : Prop :=
  ∃ p on, s.engine = .waiting p .reserve on ∨ ∃ form, s.engine = .waiting p (.arm n form) on

theorem moves_resumeEngine (pause : Option Nat) (s : State) : Moves (waitingRaises s) s (s.resumeEngine pause) := by
  unfold State.resumeEngine
  split
  · next p op on he =>
    obtain ⟨hlawful, hraises⟩ := lawful_offer (offered_of_waiting he)
    refine ⟨hlawful, fun n => (hraises n).imp_right fun ⟨h, h'⟩ => ⟨⟨p, on, ?_⟩, h'⟩⟩
    cases op with
    | reserve => exact .inl he
    | arm m form => cases h; exact .inr ⟨form, he⟩
    | _ => exact h.elim
  · next he => exact (keeps_runTeardown _ ⟨_, _, _, _, _, he⟩).moves _
  · exact (Keeps.refl s).moves _

theorem moves_secondStage_line {s t : State} {pause : Option Nat} {early : Nat} {raise : SlotNo → Prop}
    (h : execSecondStageOperation .lineMonitor pause s early = .next t) : Moves raise s t := by
  unfold execSecondStageOperation at h
  refine moves_live h fun _ => ?_
  dsimp only
  split
  · exact (keeps_goOn early s).moves raise
  · exact (Keeps.refl s).moves raise

theorem moves_recordTake {s t : State} {early : Nat} {raise : SlotNo → Prop} (h : execRecordTake s early = .next t) :
    Moves raise s t := by
  unfold execRecordTake at h
  refine moves_live h fun _ => ?_
  split
  · next rec _ _ _ => exact ((keeps_reportLost rec s).trans (keeps_recordTaken rec early _)).moves raise
  · exact (Keeps.refl s).moves raise

theorem moves_takeHead {s t : State} {upTo : FiringStage} {raise : SlotNo → Prop} (h : execTakeHead s upTo = .next t) :
    Moves raise s t := by
  unfold execTakeHead at h
  refine moves_live h fun _ => ?_
  split
  · next e rest hf hq =>
    split
    · next hdue =>
      have hi : s.insertion = none := by
        have : s.insertion.isNone = true := (Bool.and_eq_true_iff.1 hdue).1
        simpa using this
      split
      · next r hr =>
        refine Keeps.moves (Keeps.trans ?_ (keeps_carryFiring upTo _)) raise
        refine keeps_takeHead hq hr hf hi rfl rfl fun d w hrun => ?_
        rw [hrun]
      · exact (Keeps.refl s).moves raise
    · exact (Keeps.refl s).moves raise
  · exact (Keeps.refl s).moves raise

theorem moves_settling {s t : State} {upTo : Option FiringStage} {raise : SlotNo → Prop} (h : execSettling s upTo = .next t) :
    Moves raise s t := by
  unfold execSettling at h
  refine moves_live h fun _ => ?_
  split
  · exact (keeps_carryFiring _ s).moves raise
  · next hi =>
    refine Keeps.moves ((keeps_carryFiring .action s).trans (keeps_settle ?_)) raise
    obtain ⟨_, _, _, hcarry, -⟩ := State.carryFiring_frame .action s
    rw [hcarry]; exact hi
  · exact (Keeps.refl s).moves raise

theorem moves_insertCompletion {s t : State} {early : Nat} {raise : SlotNo → Prop} (h : execInsertCompletion s early = .next t) :
    Moves raise s t := by
  unfold execInsertCompletion at h
  refine moves_live h fun _ => ?_
  split
  · next i hi =>
    have hfits := fits_of_inFlight hi
    cases hc : i.client with
    | lineMonitor => exact ((keeps_finishInsert_line hfits hc (.inr hi)).trans (keeps_leaveIfApplied early _)).moves raise
    | dispatch => exact (keeps_finishInsert_firing hfits hc (.inr hi)).moves raise
    | engine p results =>
      refine (keeps_finishInsert_arm hfits hc fun hs => ?_).moves raise
      have : s.engine = .inserting p := ((engineShape_iff.2 hs).inserting p).2 (by rw [hi]; simp [armer, hc])
      rw [this]; rfl
  · exact (Keeps.refl s).moves raise

theorem moves_slewEnd {s t : State} {pins : BitVec 8} {early : Nat} {doneFirst : Bool} {raise : SlotNo → Prop}
    (h : execSlewEnd pins early doneFirst s = .next t) : Moves raise s t := by
  unfold execSlewEnd at h
  refine moves_live h fun _ => ?_
  split
  · exact (Keeps.refl s).moves raise
  · split
    · exact (keeps_endSlew _ s).moves raise
    · split
      · exact (keeps_tick ..).moves raise
      · exact (Keeps.refl s).moves raise

theorem moves_holdoffExpired {s t : State} {p : PortNo} {raise : SlotNo → Prop} (h : execHoldoffExpired p s = .next t) :
    Moves raise s t := by
  unfold execHoldoffExpired at h
  refine moves_live h fun _ => ?_
  split
  · exact (keeps_setPort (portStep_notices ..)).moves raise
  · exact (Keeps.refl s).moves raise

theorem moves_edgeRecognized {s t : State} {l : LineNo} {raise : SlotNo → Prop} (h : execEdgeRecognized l s = .next t) :
    Moves raise s t := by
  unfold execEdgeRecognized at h
  refine moves_live h fun _ => ?_
  split
  · exact (keeps_recognize l s).moves raise
  · exact (Keeps.refl s).moves raise

theorem moves_refclkRisingEdge {s t : State} {pins : BitVec 8} {tickLater : Bool} {raise : SlotNo → Prop}
    (h : exec (.refclkRisingEdge pins tickLater) s = .next t) : Moves raise s t := by
  change Host.Outcome.next _ = _ at h
  cases h
  split
  · refine Keeps.moves ?_ raise
    exact keeps_inputs fun _ => rfl
  · refine Keeps.moves (Keeps.trans ?_ (keeps_refclkEdge _ _ _)) raise
    split
    · exact keeps_takeTick _ _ _
    · exact .refl s

/-! ## Device reset -/

/-- Device reset of `s` leaves `t`; the quotas sum to 64 again (R7, R168). -/
def ResetOf (s t : State) : Prop :=
  ∃ rstn straps quota, t = s.deviceReset rstn straps quota ∧ (s.QuotaLaw → (allPorts.map quota).sum = 64)

section DeviceReset
variable {s : State} {rstn : Bool} {straps : BitVec 2} {quota : PortNo → Nat}

theorem slot_deviceReset (n : SlotNo) : (s.deviceReset rstn straps quota).slot n = Slot.reset := Vector.getElem_replicate ..

theorem held_deviceReset (n : SlotNo) : (s.deviceReset rstn straps quota).held n = none := congrArg Slot.held (slot_deviceReset n)

theorem output_deviceReset (l : LineNo) : (s.deviceReset rstn straps quota).output l = OutputLine.reset := Vector.getElem_replicate ..

theorem input_deviceReset (l : LineNo) :
    (s.deviceReset rstn straps quota).input l = InputLine.reset (s.input l).stage1 (s.input l).stage2 := by
  simp [State.input, State.deviceReset]

theorem quota_deviceReset (p : PortNo) : (s.deviceReset rstn straps quota).quota p = { quota := quota p, owned := 0 } := by
  simp [State.quota, State.deviceReset]

theorem timerLaw_deviceReset : (s.deviceReset rstn straps quota).TimerLaw := by
  refine timerShape_iff.1 ⟨fun n => ?_, nofun, fun n hn => absurd ?_ hn, List.nodup_nil, nofun⟩
  · rw [isFiring_eq, held_deviceReset]; exact iff_of_false nofun nofun
  · rw [armedAt_eq, held_deviceReset]; rfl

theorem quotaLaw_deviceReset (h : (allPorts.map quota).sum = 64) : (s.deviceReset rstn straps quota).QuotaLaw := by
  refine quotaLaw_iff.2 ⟨?_, fun p => ?_, ?_⟩
  · simpa only [quota_deviceReset] using h
  · have : (s.deviceReset rstn straps quota).ownedCount p = 0 := by
      simp [State.ownedCount, owns_eq, held_deviceReset]
    rw [quota_deviceReset, this]; exact ⟨Nat.zero_le _, rfl⟩
  · have : (s.deviceReset rstn straps quota).freeCount = 64 := by
      simp [State.freeCount, held_deviceReset, allSlots]
    simp only [quota_deviceReset, Nat.sub_zero, this, h]

theorem outputLaw_deviceReset : (s.deviceReset rstn straps quota).OutputLaw :=
  outputLaw_iff.2 ⟨fun n _ _ hr => absurd ((held_deviceReset n).symm.trans hr) nofun, fun l _ => by rw [output_deviceReset]; rfl⟩

theorem bindingLaw_deviceReset : (s.deviceReset rstn straps quota).BindingLaw := fun l => by
  rw [input_deviceReset]
  refine ⟨Nat.zero_le _, List.nodup_nil, fun n => ?_⟩
  rw [held_deviceReset]
  exact iff_of_false nofun (by simp)

theorem runLaw_deviceReset : (s.deviceReset rstn straps quota).RunLaw :=
  runShape_iff.1 ⟨fun n _ hr => absurd ((held_deviceReset n).symm.trans hr) nofun, nofun, nofun, nofun⟩

theorem watcherLaw_deviceReset : (s.deviceReset rstn straps quota).WatcherLaw :=
  watcherLaw_iff.2 ⟨fun n _ hr => absurd ((held_deviceReset n).symm.trans hr) nofun, nofun⟩

theorem detachedLaw_deviceReset : (s.deviceReset rstn straps quota).DetachedLaw := by
  refine detachedLaw_iff.2 ⟨fun p _ => ⟨fun n => ?_, fun l => ?_, nofun⟩, nofun, trivial⟩
  · rw [owns_eq, watches_eq, held_deviceReset]; exact ⟨rfl, rfl⟩
  · rw [output_deviceReset]; nofun

theorem engineLaw_deviceReset : (s.deviceReset rstn straps quota).EngineLaw := by
  refine engineShape_iff.1 ⟨fun p => ?_, fun p => iff_of_false nofun nofun, fun p => ?_⟩
  · rw [port_deviceReset]; exact iff_of_false nofun nofun
  · rw [port_deviceReset]
    refine ⟨nofun, nofun, fun reply h => absurd h ?_⟩
    dsimp only [resetLink]; split <;> nofun

theorem linkLaw_deviceReset : (s.deviceReset rstn straps quota).LinkLaw := fun p => by
  rw [port_deviceReset]
  change resetLink rstn (s.port p).prstn = .inert ↔ rstn = true ∨ (s.port p).prstn = true
  cases rstn <;> cases (s.port p).prstn <;> simp [resetLink]

end DeviceReset

theorem strapQuota_sum (straps : BitVec 2) : (allPorts.map (strapQuota straps)).sum = 64 := by
  revert straps; decide

theorem quotaSum_of_law {s : State} (h : s.QuotaLaw) : (allPorts.map fun p => (s.quota p).quota).sum = 64 := (quotaLaw_iff.1 h).1

/-! ## Every row -/

/-- The slots whose generation a command may raise (R3). -/
def raisedBy (c : Instr) (s : State) (n : SlotNo) : Prop :=
  c = .reserve ∨ c = .arm ∨ ∃ pause early, c = .secondStageOperation .engine pause early ∧ waitingRaises s n

theorem Moves.mono {raise raise' : SlotNo → Prop} {s t : State} (h : Moves raise s t) (hr : ∀ n, raise n → raise' n) :
    Moves raise' s t := ⟨h.1, fun n => (h.2 n).imp_right fun ⟨hn, hg⟩ => ⟨hr n hn, hg⟩⟩

/-- Every command keeps the laws and raises generations where R3 says, or is an edge of RSTn that resets the part. -/
theorem exec_moves {c : Instr} {s t : State} (h : exec c s = .next t) :
    Moves (raisedBy c s) s t ∨ ((c = .rstnAssert ∨ ∃ straps, c = .rstnRelease straps) ∧ ResetOf s t) := by
  cases c with
  | rstnAssert =>
    cases h
    split
    · exact .inl ((Keeps.refl s).moves _)
    · exact .inr ⟨.inl rfl, _, _, _, rfl, quotaSum_of_law⟩
  | rstnRelease straps =>
    cases h
    split
    · exact .inr ⟨.inr ⟨straps, rfl⟩, _, _, _, rfl, fun _ => strapQuota_sum straps⟩
    · exact .inl ((Keeps.refl s).moves _)
  | openSession => exact .inl (moves_openSession h)
  | closeSession pause => exact .inl (moves_closeSession h)
  | reserve => exact .inl ((moves_reserve h).mono fun _ _ => .inl rfl)
  | release => exact .inl (moves_release h)
  | setShare => exact .inl (moves_setShare h)
  | watch => exact .inl (moves_watch h)
  | unwatch => exact .inl (moves_unwatch h)
  | query => exact .inl (moves_query h)
  | giveQuota => exact .inl (moves_giveQuota h)
  | configure => exact .inl (moves_configure h)
  | arm => exact .inl ((moves_arm h).mono fun _ _ => .inr (.inl rfl))
  | disarm => exact .inl (moves_disarm h)
  | takeAuthority => exact .inl (moves_takeAuthority h)
  | yieldAuthority => exact .inl (moves_yieldAuthority h)
  | stepTime => exact .inl (moves_stepTime h)
  | slew => exact .inl (moves_slew h)
  | cancelSlew => exact .inl (moves_cancelSlew h)
  | setDivisor => exact .inl (moves_setDivisor h)
  | claimOutput => exact .inl (moves_claimOutput h)
  | driveOutput => exact .inl (moves_driveOutput h)
  | releaseOutput => exact .inl (moves_releaseOutput h)
  | setAttention => exact .inl (moves_setAttention h)
  | submit p bytes => exact .inl (moves_submit h)
  | fetch p => exact .inl (moves_transaction h fun _ hx => portStep_fetch hx)
  | fetchEnd p => exact .inl (moves_fetchEnd h)
  | peek p offset => exact .inl (moves_transaction h fun x hx => portStep_answer _ (.refl _ x) hx rfl)
  | ack p seq => exact .inl (moves_ack h)
  | time p => exact .inl (moves_time h)
  | portstat p => exact .inl (moves_transaction h fun x hx => portStep_answer _ (.refl _ x) hx rfl)
  | doNothingTransaction p selector => exact .inl (moves_doNothing h)
  | chipSelectNegation p => cases h; exact .inl ((keeps_chipSelectNegation s p).moves _)
  | prstnAssert p => exact .inl (moves_prstnAssert h)
  | prstnRelease p => exact .inl (moves_prstnRelease h)
  | tickEvent pins early doneFirst => exact .inl (moves_live h fun _ => (keeps_tick pins early doneFirst s).moves _)
  | slewEnd pins early doneFirst => exact .inl (moves_slewEnd h)
  | holdoffExpired p => exact .inl (moves_holdoffExpired h)
  | edgeRecognized l => exact .inl (moves_edgeRecognized h)
  | recordTake early => exact .inl (moves_recordTake h)
  | edgeApplication early => exact .inl (moves_live h fun _ => (keeps_goOn early s).moves _)
  | portArbiterGrant pause => exact .inl (moves_portArbiterGrant h)
  | secondStageOperation client pause early =>
    cases client with
    | engine =>
      exact .inl (moves_live h fun _ => (moves_resumeEngine pause s).mono fun _ hn => .inr (.inr ⟨pause, early, rfl, hn⟩))
    | lineMonitor => exact .inl (moves_secondStage_line (pause := pause) h)
  | takeHead upTo => exact .inl (moves_takeHead h)
  | settling upTo => exact .inl (moves_settling h)
  | insertCompletion early => exact .inl (moves_insertCompletion h)
  | chipSelectAssertion p => cases h; exact .inl ((keeps_chipSelectAssertion s p).moves _)
  | refclkRisingEdge pins tickLater => exact .inl (moves_refclkRisingEdge h)

/-- What a step leaves, the front command having been taken: a lawful move, or a reset part. -/
theorem step_lawful {s t : State} (h : step s = .next t) :
    (∃ rest, Lawful { s with pending := rest } t) ∨ ∃ rest, ResetOf { s with pending := rest } t := by
  cases hp : s.pending with
  | nil =>
    have : step s = .next s := by simp [step, hp]
    cases this.symm.trans h
    exact .inl ⟨s.pending, .refl s⟩
  | cons c rest =>
    rw [step_cons hp] at h
    exact (exec_moves h).imp (fun hm => ⟨rest, hm.1⟩) fun hr => ⟨rest, hr.2⟩

/-! ## The statements -/

/-- Settles O50: every part of a step keeps both laws, and device reset leaves an empty queue. -/
theorem queueAndSlotsAgree : Obligations.QueueAndSlotsAgree := by
  intro s t h
  obtain ⟨rest, hl⟩ | ⟨rest, rstn, straps, quota, rfl, -⟩ := step_lawful h
  · exact ⟨hl.sorted, hl.timer⟩
  · exact ⟨fun _ => List.Pairwise.nil, fun _ => timerLaw_deviceReset⟩

/-- Settles O51: only RESERVE, RELEASE, GIVE_QUOTA and device reset write the quota table or a slot's owner. -/
theorem quotaLawsKept : Obligations.QuotaLawsKept := by
  intro s t hs h
  obtain ⟨rest, hl⟩ | ⟨rest, rstn, straps, quota, rfl, hq⟩ := step_lawful h
  · exact hl.quota hs
  · exact quotaLaw_deviceReset (hq hs)

/-- Settles O52: an action is set on a claimed line, and a line is given up when no action names it. -/
theorem outputActionsStayClaimed : Obligations.OutputActionsStayClaimed := by
  intro s t hs h
  obtain ⟨rest, hl⟩ | ⟨rest, rstn, straps, quota, rfl, -⟩ := step_lawful h
  · exact hl.output hs
  · exact outputLaw_deviceReset

/-- Settles O53: a binding follows its slot's mode in CONFIGURE and goes with the slot in a release. -/
theorem bindingListsMatchModes : Obligations.BindingListsMatchModes := by
  intro s t hs h
  obtain ⟨rest, hl⟩ | ⟨rest, rstn, straps, quota, rfl, -⟩ := step_lawful h
  · exact hl.binding hs
  · exact bindingLaw_deviceReset

/-- Settles O54: the arithmetic of the slew is `slew_tick`'s. -/
theorem dividerAndSlewKept : Obligations.DividerAndSlewKept := by
  intro s t h
  obtain ⟨rest, hl⟩ | ⟨rest, rstn, straps, quota, rfl, -⟩ := step_lawful h
  · exact ⟨hl.divider, hl.slew⟩
  · exact ⟨fun _ => ⟨Nat.le_refl 1, show 1 ≤ 4096 by decide, Nat.zero_lt_one, nofun, nofun⟩, fun _ => nofun⟩

/-- Settles O55: the law of the Deadline Queue says which slot an insertion and a firing are of. -/
theorem slotsSuitTheirModes : Obligations.SlotsSuitTheirModes := by
  intro s t hs ht h
  obtain ⟨rest, hl⟩ | ⟨rest, rstn, straps, quota, rfl, -⟩ := step_lawful h
  · exact hl.run hs ht
  · exact runLaw_deviceReset

/-- Settles O57: an operation that waited still finds its port OPEN, and a teardown ends on a port that holds nothing. -/
theorem watchersAndDetachedPorts : Obligations.WatchersAndDetachedPorts := by
  intro s t h
  obtain ⟨rest, hl⟩ | ⟨rest, rstn, straps, quota, rfl, -⟩ := step_lawful h
  · exact ⟨hl.watcher, hl.detached⟩
  · exact ⟨fun _ => watcherLaw_deviceReset, fun _ => detachedLaw_deviceReset⟩

/-- Settles O58: a request is in the engine's hand from its grant to its completion. -/
theorem engineAndLinksAgree : Obligations.EngineAndLinksAgree := by
  intro s t h
  obtain ⟨rest, hl⟩ | ⟨rest, rstn, straps, quota, rfl, -⟩ := step_lawful h
  · exact ⟨hl.engine, hl.link⟩
  · exact ⟨fun _ _ => engineLaw_deviceReset, fun _ => linkLaw_deviceReset⟩

/-- Settles O59: no command but the two edges of RSTn lowers the count (`exec_moves`). -/
theorem timeNeverDecreases : Obligations.TimeNeverDecreases := by
  intro s t h
  cases hp : s.pending with
  | nil =>
    have : step s = .next s := by simp [step, hp]
    cases this.symm.trans h
    exact .inl (Nat.le_refl _)
  | cons c rest =>
    rw [step_cons hp] at h
    obtain hm | ⟨hc, rstn, straps, quota, rfl, -⟩ := exec_moves h
    · exact .inl hm.1.time
    · refine .inr ⟨rfl, hc.imp (fun h => ?_) fun ⟨straps, h⟩ => ⟨straps, ?_⟩⟩ <;> rw [h] <;> rfl

/-- Settles O60: RESERVE and ARM raise a generation when they are taken, at once or by the engine's second stage (`moves_reserve`,
`moves_arm`, `moves_resumeEngine`), and no other part of a step writes one (`Keeps`). -/
theorem generationChangesOnlyAtReserveAndArm : Obligations.GenerationChangesOnlyAtReserveAndArm := by
  intro s t n h
  cases hp : s.pending with
  | nil =>
    have : step s = .next s := by simp [step, hp]
    cases this.symm.trans h
    exact .inl rfl
  | cons c rest =>
    rw [step_cons hp] at h
    obtain ⟨-, hraises⟩ | ⟨hc, rstn, straps, quota, rfl, -⟩ := exec_moves h
    · obtain hsame | ⟨hn, hg⟩ := hraises n
      · exact .inl hsame
      · refine .inr (.inl ⟨hg, ?_⟩)
        obtain rfl | rfl | ⟨pause, early, rfl, p, on, hengine⟩ := hn
        · exact .inl rfl
        · exact .inr (.inl rfl)
        · exact .inr (.inr ⟨pause, early, p, on, rfl, hengine⟩)
    · have hgeneration := congrArg Slot.generation (slot_deviceReset (rstn := rstn) (straps := straps) (quota := quota) (s := s) n)
      refine .inr (.inr ⟨hgeneration, hc.imp (fun h => ?_) fun ⟨straps, h⟩ => ⟨straps, ?_⟩⟩) <;>
        rw [h] <;> rfl

theorem exec_total (c : Instr) (s : State) : ∃ t, exec c s = .next t := by
  cases c <;> exact ⟨_, rfl⟩

/-- Settles O2: each row is an outcome `.next`, and no part of one moves a command. -/
theorem everyCommandCompletes : Obligations.EveryCommandCompletes := by
  intro c s
  obtain ⟨t, h⟩ := exec_total c s
  refine ⟨t, h, ?_⟩
  obtain hm | ⟨-, rstn, straps, quota, rfl, -⟩ := exec_moves h
  · exact hm.1.pending
  · rfl

end Sys2Proof.Claims
end

section
/-! SUPPORT. The requests that name a slot (sections 1.2 and 1.4): their checks in order, the offer of the slot operation, and the
operations that are taken at once. -/

namespace Sys2Proof.Claims

open Sys2Proof.Machine

/-! ## The machine and the common checks -/

/-- Settles O1, by the two equations of `step`. -/
theorem stepRunsFrontCommand : Obligations.StepRunsFrontCommand :=
  ⟨fun _ _ _ h => step_cons h, fun s h => by rw [step, h]⟩

/-- Every request's row lets the engine serve that request. -/
theorem exec_row (c : Req) : ∃ k, ∀ s, exec (row c) s = s.live fun s => s.serve c k := by
  cases c <;> exact ⟨_, fun _ => rfl⟩

/-- Settles O3: the frame check comes before the session check, and both before the request's own work. -/
theorem frameAndSessionChecks : Obligations.FrameAndSessionChecks := by
  intro s p c params hlive he hf
  obtain ⟨k, hk⟩ := exec_row c
  have hrefuse (status : Status) : s.refuse p status = completed s p c status [] := complete_eq_completed hf status []
  rw [hk, State.live_of_not_rstn hlive]
  refine ⟨fun hl => ?_, fun hl hc ho => ?_⟩
  · simp [State.serve, he, hf, hl, hrefuse]
  · simp [State.serve, he, hf, hl, hc, ho, hrefuse]

/-! ## A request that names a slot -/

/-- What a granted request that names a slot comes to: the parameter's range, the slot, the caller's right, and then the offer of its slot
operation (R6, R9, R149). -/
def slotRequest (s : State) (p : PortNo) (c : Req) (params : List Byte) : State :=
  match offered c params 0, s.namedSlot (byteAt params 0) with
  | none, _ => s.refuse p .badParam
  | some _, none => s.refuse p .badSlot
  | some _, some (n, r) =>
    match noRight c p r, offered c params n with
    | some status, _ => s.refuse p status
    | none, some op => s.offer p (some n) op (State.takeOp p op)
    | none, none => s

theorem exec_slotRequest {s : State} {p : PortNo} {c : Req} {params : List Byte} (hc : c ∈ slotRequests)
    (h : Granted s p c params) : exec (row c) s = .next (slotRequest s p c params) := by
  have hserve (k) (hk : k p params s = slotRequest s p c params) :
      (s.live fun s => s.serve c k) = .next (slotRequest s p c params) := by rw [h.live_serve, hk]
  cases c with
  | release | watch | unwatch | query | disarm =>
    refine hserve _ ?_
    simp only [slotRequest, offered, noRight, State.ownerRequest]
    cases s.namedSlot (byteAt params 0)
    · rfl
    · dsimp only; split_ifs <;> rfl
  | setShare =>
    refine hserve _ ?_
    simp only [slotRequest, offered, noRight, State.ownerRequest]
    cases Share.ofCode (byteAt params 1) <;> cases s.namedSlot (byteAt params 0) <;> try rfl
    dsimp only [Option.map]; split_ifs <;> rfl
  | configure =>
    refine hserve _ ?_
    simp only [slotRequest, offered, noRight, State.ownerRequest]
    cases configureOf params <;> cases s.namedSlot (byteAt params 0) <;> try rfl
    dsimp only [Option.map]; split_ifs <;> rfl
  | arm =>
    refine hserve _ ?_
    simp only [slotRequest, offered, noRight, State.ownerRequest]
    cases armFormOf params <;> cases s.namedSlot (byteAt params 0) <;> try rfl
    dsimp only [Option.map]; split_ifs <;> rfl
  | _ => exact absurd hc (by decide)

/-- Whether a parameter is out of range does not depend on the slot that the request names (R149 step 3). -/
theorem offered_eq_none_iff (c : Req) (params : List Byte) (n m : SlotNo) : offered c params n = none ↔ offered c params m = none := by
  cases c <;> simp [offered]

theorem offered_slot {c : Req} {params : List Byte} {n : SlotNo} {op : SlotOp} (h : offered c params n = some op) :
    op.slot = some n := by
  cases c <;> simp [offered] at h
  case setShare => obtain ⟨_, _, rfl⟩ := h; rfl
  case configure => obtain ⟨_, _, _, _, rfl⟩ := h; rfl
  case arm => obtain ⟨_, _, rfl⟩ := h; rfl
  all_goals subst h; rfl

/-- No slot is named by a number above 63 or by that of a FREE slot (R9). -/
theorem namedSlot_eq_none {s : State} {v : Nat} (h : ∀ n : SlotNo, v = n.val → s.held n = none) : s.namedSlot v = none := by
  unfold State.namedSlot
  split
  · next hv => rw [h ⟨v, hv⟩ rfl]; rfl
  · rfl

section
variable {s : State} {p : PortNo} {c : Req} {params : List Byte} {n : SlotNo} {r : Reservation} {op : SlotOp}

theorem slotRequest_badParam (h : offered c params 0 = none) : slotRequest s p c params = s.refuse p .badParam := by
  rw [slotRequest, h]

theorem slotRequest_badSlot (h : offered c params 0 ≠ none) (hn : s.namedSlot (byteAt params 0) = none) :
    slotRequest s p c params = s.refuse p .badSlot := by
  obtain ⟨op, hop⟩ := Option.ne_none_iff_exists'.1 h
  rw [slotRequest, hop, hn]

/-- A request on a reserved slot: the caller's right decides between the refusal and the offer (R9 step 3, R6). -/
theorem slotRequest_named (hop : offered c params n = some op) (hn : byteAt params 0 = n.val) (hr : s.held n = some r) :
    slotRequest s p c params = (noRight c p r).elim (s.offer p (some n) op (State.takeOp p op)) fun status => s.refuse p status := by
  obtain ⟨op', hop'⟩ := Option.ne_none_iff_exists'.1
    (mt (offered_eq_none_iff c params 0 n).1 (by rw [hop]; exact Option.some_ne_none op))
  have hslot : s.namedSlot (byteAt params 0) = some (n, r) := hn ▸ (State.namedSlot_eq_some s n r).2 hr
  rw [slotRequest, hop', hslot]
  dsimp only
  rw [hop]
  cases noRight c p r <;> rfl

/-- A request on a slot that passes its checks and need not wait is its slot operation (R5, R6). -/
theorem exec_slotRequest_taken (hc : c ∈ slotRequests) (h : Granted s p c params) (hop : offered c params n = some op)
    (hn : byteAt params 0 = n.val) (hr : Ready s n r) (hright : noRight c p r = none) :
    exec (row c) s = .next (s.takeOp p op) := by
  have hw : s.waitsFor (some n) = none := (s.waitsFor_eq_none n).2 ⟨(isFiring_of_held hr.held).trans hr.settled, hr.quiet⟩
  rw [exec_slotRequest hc h, slotRequest_named hop hn hr.held, hright, Option.elim, State.offer_taken hw]

end

/-- Settles O4, by the checks in the order in which the engine makes them. -/
theorem slotRequestsCheckThenWait : Obligations.SlotRequestsCheckThenWait := by
  intro s p c params hc h
  rw [exec_slotRequest hc h]
  refine ⟨fun hnone => ?_, fun n hop hn hfree => ?_, fun hop hv => ?_, fun n r op hop hn hr => ?_⟩
  · rw [slotRequest_badParam hnone, h.refuse_eq]
  · have hslot : s.namedSlot (byteAt params 0) = none :=
      namedSlot_eq_none fun m hm => by rwa [← Fin.ext (hn.symm.trans hm)]
    rw [slotRequest_badSlot (mt (offered_eq_none_iff c params n 0).2 hop) hslot, h.refuse_eq]
  · have hslot : s.namedSlot (byteAt params 0) = none :=
      namedSlot_eq_none fun m hm => by have := m.isLt; omega
    rw [slotRequest_badSlot hop hslot, h.refuse_eq]
  · rw [slotRequest_named hop hn hr]
    refine ⟨fun status hs => ?_, fun hs hfiring => ?_, fun hs hfiring hi => ?_⟩
    · rw [hs, Option.elim, h.refuse_eq]
    · rw [hs, Option.elim, State.offer_waits (State.waitsFor_of_isFiring ((isFiring_of_held hr).trans hfiring))]
    · have hw : s.waitsFor (some n) = some .insertion := by
        have := (isFiring_of_held hr).trans hfiring
        simp [State.waitsFor, Option.filter, this, Option.isSome_iff_ne_none.2 hi]
      rw [hs, Option.elim, State.offer_waits hw]

/-- Settles O5: the parameter checks read exactly the encodings within their ranges (`configureOf_eq_some`, `armFormOf_eq_some`). -/
theorem configureAndArmRanges : Obligations.ConfigureAndArmRanges := by
  intro s p v params
  have hrefused {c : Req} (hc : c ∈ slotRequests) (h : Granted s p c (v :: params)) (hnone : offered c (v :: params) 0 = none) :
      exec (row c) s = .next (completed s p c .badParam []) := by
    rw [exec_slotRequest hc h, slotRequest_badParam hnone, h.refuse_eq]
  refine ⟨fun h hno => hrefused (by decide) h ?_, fun h hno => hrefused (by decide) h ?_⟩
  · cases hof : configureOf (v :: params) with
    | none => simp [offered, hof]
    | some x => exact absurd ⟨x.1, x.2.1, x.2.2, (configureOf_eq_some h.length).1 hof⟩ hno
  · cases hof : armFormOf (v :: params) with
    | none => simp [offered, hof]
    | some form => exact absurd ⟨form, (armFormOf_eq_some (Nat.succ.inj h.length)).1 hof⟩ hno

end Sys2Proof.Claims
end

section
/-! SUPPORT. The slot operations of section 1.4 and DISARM, taken at once by a granted request (O10 to O13, O17). -/

namespace Sys2Proof.Claims

open Sys2Proof.Machine

theorem byteAt_slot (n : SlotNo) (bs : List Byte) : byteAt (BitVec.ofNat 8 n.val :: bs) 0 = n.val := by
  simp [byteAt, BitVec.toNat_ofNat, Nat.mod_eq_of_lt (by omega : n.val < 256)]

/-! ## RELEASE -/

/-- No copy of a notice goes to a port outside the set it is sent to. -/
theorem port_copies_of_not {s : State} {sentTo : PortNo → Bool} {p : PortNo} (h : sentTo p = false) (notice : PortNo → Notice) :
    (copies s sentTo notice).port p = s.port p := by rw [port_copies, h]; rfl

/-- A request that tells other ports of its work is completed like one that tells none. -/
theorem Granted.complete_copies {s t : State} {p : PortNo} {c : Req} {params : List Byte} (h : Granted s p c params)
    (ht : t.port p = s.port p) {sentTo : PortNo → Bool} (hp : sentTo p = false) (notice : PortNo → Notice) (status : Status)
    (results : List Byte) :
    (copies t sentTo notice).complete p status results = completed (copies t sentTo notice) p c status results :=
  h.complete_eq ((port_copies_of_not hp notice).trans ht) status results

theorem port_freed {s : State} {p : PortNo} {n : SlotNo} {r : Reservation} (h : r.watchers[p] = false) :
    (freed s n r).port p = s.port p := port_copies_of_not (p := p) h _

/-- Settles O10: the release is `freed` (`release_eq_freed`), which leaves the caller's own port alone. -/
theorem releaseFreesSlot : Obligations.ReleaseFreesSlot := by
  intro s p n r h hr howner hw hentry
  have hop : s.takeOp p (.release n) = (freed s n r).complete p .ok (slotResult n (s.slot n).generation) := by
    rw [State.takeOp, State.releaseOp, hr.held]; dsimp only; rw [release_eq_freed hentry]
  refine (exec_slotRequest_taken (c := .release) (by decide) h rfl (byteAt_slot n []) hr (if_pos howner)).trans ?_
  rw [hop, h.complete_eq (port_freed hw)]
  rfl

/-! ## SET_SHARE -/

/-- Settles O11, by the share that the slot has and the one it gets. -/
theorem setShareOpensAndCloses : Obligations.SetShareOpensAndCloses := by
  intro s p n r share h hr howner hw
  have hcode : Share.ofCode (byteAt [BitVec.ofNat 8 n.val, share.code] 1) = some share := share_ofCode_eq_some.2 rfl
  refine (exec_slotRequest_taken (c := .setShare) (by decide) h (op := .setShare n share) ?_ (byteAt_slot n _) hr (if_pos howner)).trans ?_
  · rw [offered, hcode]; rfl
  rw [State.takeOp, State.setShareOp, hr.held]
  cases hs : r.share <;> cases share <;>
    simp only [hs, reduceCtorEq, if_false, if_true, deliverWatchers_eq_copies] <;> refine congrArg Host.Outcome.next ?_
  · exact h.complete_eq (by rfl) _ _
  · exact h.complete_eq (by rfl) _ _
  · exact h.complete_copies (by rfl) (sentTo := fun q => r.watchers[q]) hw _ _ _
  · exact h.complete_eq (by rfl) _ _

/-! ## WATCH and UNWATCH -/

/-- Settles O12, by the two slot operations. -/
theorem watchAndUnwatch : Obligations.WatchAndUnwatch := by
  refine fun s p n r hr => ⟨fun h howner hshare => ?_, fun h hw => ?_⟩
  · have hright : noRight .watch p r = none := by simp [noRight, howner, hshare]
    refine (exec_slotRequest_taken (c := .watch) (by decide) h rfl (byteAt_slot n []) hr hright).trans ?_
    rw [State.takeOp, State.watchOp, hr.held]
    exact congrArg Host.Outcome.next (h.complete_eq (by rfl) _ _)
  · refine (exec_slotRequest_taken (c := .unwatch) (by decide) h rfl (byteAt_slot n []) hr (if_pos hw)).trans ?_
    rw [State.takeOp, State.unwatchOp, hr.held]
    exact congrArg Host.Outcome.next (h.complete_eq (by rfl) _ _)

/-! ## DISARM -/

/-- Settles O17, by whether the slot is IDLE. -/
theorem disarmStopsSlot : Obligations.DisarmStopsSlot := by
  intro s p n r h hr howner hw hentry
  refine (exec_slotRequest_taken (c := .disarm) (by decide) h rfl (byteAt_slot n []) hr (if_pos howner)).trans ?_
  rw [State.takeOp, State.disarmOp, hr.held]
  dsimp only
  split
  · next hidle => rw [h.complete_eq rfl, hidle]; rfl
  · rw [deliverWatchers_eq_copies]
    rw [h.complete_copies (t := s.remove n r .idle) rfl (sentTo := fun q => r.watchers[q]) hw]
    cases r.run <;> rfl

/-! ## Flags -/

/-- A flag byte has its flags as its bits (R170). -/
theorem testBit_flags (flags : List Bool) (k : Nat) :
    (flags.foldr (fun (f : Bool) (v : Nat) => 2 * v + f.toNat) 0).testBit k = flags.getD k false := by
  induction flags generalizing k with
  | nil => simp
  | cons f flags ih =>
    rw [List.foldr_cons]
    generalize flags.foldr (fun (f : Bool) (v : Nat) => 2 * v + f.toNat) 0 = v at ih ⊢
    cases k with
    | zero => cases f <;> simp
    | succ k =>
      rw [List.getD_cons_succ, ← ih, Nat.testBit_succ]
      congr 1
      have hf := f.toNat_le
      omega

theorem getLsbD_flagByte {flags : List Bool} (h : flags.length ≤ 8) (k : Nat) : (flagByte flags).getLsbD k = flags.getD k false := by
  rw [flagByte, BitVec.getLsbD_ofNat, testBit_flags]
  by_cases hk : k < 8
  · simp [hk]
  · simp [hk, show flags.length ≤ k by omega]

theorem testBit_flagByte {flags : List Bool} (h : flags.length ≤ 8) (k : Nat) :
    (flagByte flags).toNat.testBit k = flags.getD k false := by
  rw [BitVec.testBit_toNat, getLsbD_flagByte h]

/-! ## QUERY -/

/-- A field that is read where it begins, and holds a word whole (R170). -/
theorem fieldBE_word {n w : Nat} (hw : 2 ^ w ≤ 256 ^ n) (x : BitVec w) (bs : List Byte) :
    fieldBE (bytesBE n x.toNat ++ bs) 0 n = x.toNat := by
  rw [fieldBE_bytesBE_append, Nat.mod_eq_of_lt (Nat.lt_of_lt_of_le x.isLt hw)]

theorem fieldBE_last_word {n w : Nat} (hw : 2 ^ w ≤ 256 ^ n) (x : BitVec w) : fieldBE (bytesBE n x.toNat) 0 n = x.toNat := by
  simpa using fieldBE_word hw x []

theorem actionBytes_eq (action : Option OutputAction) :
    [(action.map fun a => lineByte a.line).getD 0, (action.map fun a => a.action.code).getD 0] = actionBytes action := by
  cases action <;> rfl

/-- The slot record by its fields (R174). -/
theorem record_eq (n : SlotNo) (generation : Half) (r : Reservation) :
    r.record n generation = slotByte (some n) :: r.run.code :: portByte (some r.owner) :: r.share.code :: flagByte r.watchers.toList ::
      (bytesBE 2 generation.toNat ++ (bytesBE 4 r.tag.toNat ++ (r.mode.block ++ (actionBytes r.action ++
        (bytesBE 2 r.fireCount.toNat ++ (bytesBE 8 r.run.deadlineField.toNat ++ (bytesBE 4 r.run.remainingField.toNat ++
          bytesBE 8 r.run.windowStartField.toNat))))))) := by
  rw [Reservation.record, actionBytes_eq]
  simp only [List.append_assoc, List.cons_append, List.nil_append]

@[simp] theorem length_actionBytes (action : Option OutputAction) : (actionBytes action).length = 2 := by cases action <;> rfl

/-- Settles O13: the record's fields stand one after another (`record_eq`), and each is read where the ones before it end. -/
theorem queryReturnsSlotRecord : Obligations.QueryReturnsSlotRecord := by
  intro s p n r h hr hright
  have hexec : exec .query s = .next (completed s p .query .ok (r.record n (s.slot n).generation)) := by
    refine (exec_slotRequest_taken (c := .query) (by decide) h rfl (byteAt_slot n []) hr (if_pos hright)).trans ?_
    rw [State.takeOp, State.queryOp, hr.held]
    exact congrArg Host.Outcome.next (h.complete_eq (by rfl) _ _)
  refine ⟨_, hexec, ?_⟩
  rw [record_eq]
  have hbyte (v : Nat) (hv : v < 256) : (BitVec.ofNat 8 v).toNat = v := by simp [Nat.mod_eq_of_lt hv]
  refine ⟨by simp, ?_, ?_, ?_, ?_, ?_, ?_, ?_, ?_, ?_, ?_, ?_, ?_, ?_⟩
  · rw [fieldBE_one]; exact hbyte n.val (by omega)
  · rw [fieldBE_cons_succ, fieldBE_one]
  · rw [fieldBE_cons_succ, fieldBE_cons_succ, fieldBE_one]; exact hbyte r.owner.val (by omega)
  · simp only [fieldBE_cons_succ, fieldBE_one]
  · intro q
    simp only [fieldBE_cons_succ, fieldBE_one]
    rw [testBit_flagByte (by simp)]
    simp [List.getD]
  · simp [fieldBE_cons_succ, fieldBE_word]
  · simp [fieldBE_cons_succ, fieldBE_append_right, fieldBE_word]
  · simp [List.drop_append, List.take_append]
  · simp [List.drop_append, List.drop_of_length_le]
  · simp [fieldBE_cons_succ, fieldBE_append_right, fieldBE_word]
  · simp [fieldBE_cons_succ, fieldBE_append_right, fieldBE_word]
  · simp [fieldBE_cons_succ, fieldBE_append_right, fieldBE_word]
  · simp [fieldBE_cons_succ, fieldBE_append_right, fieldBE_last_word]


end Sys2Proof.Claims
end

section
/-! SUPPORT. CONFIGURE and ARM (sections 3.2 and 3.3), taken at once by a granted request (O15, O16), and INSERT in the words of the
statements. -/

namespace Sys2Proof.Claims

open Sys2Proof.Machine

/-! ## INSERT -/

/-- The walk of an INSERT passes no entry exactly when the head, if any, is later (R29). -/
theorem walkLength_eq_zero_iff (d : TimeCount) (q : List Entry) :
    walkLength d q = 0 ↔ ∀ e ∈ q.head?, d.toNat < e.deadline.toNat := by
  cases q with
  | nil => simp [walkLength]
  | cons e q =>
    by_cases h : e.deadline.toNat ≤ d.toNat
    · simp [walkLength, h]
    · simpa [walkLength, h] using Nat.not_le.1 h

/-- INSERT in the words of the statements: the end of the operation that contains it follows at once, or it is in flight (R29). -/
theorem insert_eq_entered {s : State} {i : Insertion} {r : Reservation} (hr : s.held i.slot = some r) (hi : s.insertion = none)
    {done : State → State} (hdone : s.finishInsert i = done (s.place i)) : s.insert i = entered s i r done := by
  unfold State.insert entered
  by_cases h : walkLength i.deadline s.queue = 0
  · rw [if_pos h, if_pos ((walkLength_eq_zero_iff ..).1 h), hdone, State.place_of_held hr, placeEntry, h, ← hi]
    rfl
  · rw [if_neg h, if_neg fun h' => h ((walkLength_eq_zero_iff ..).2 h')]

theorem port_place {s : State} {i : Insertion} (p : PortNo) : (s.place i).port p = s.port p := by
  unfold State.place
  dsimp only
  split <;> rfl

/-! ## CONFIGURE -/

theorem byteAt_configureBytes (n : SlotNo) (mode : Mode) (tag : Word) (action : Option OutputAction) :
    byteAt (configureBytes (BitVec.ofNat 8 n.val) mode tag action) 0 = n.val := byteAt_slot n _

theorem actionClaimed_iff {s : State} {p : PortNo} {action : Option OutputAction} :
    s.actionClaimed p action = true ↔ ¬∃ a ∈ action, (s.output a.line).claim ≠ some p := by
  cases action <;> simp [State.actionClaimed]

theorem bindingFull_iff {s : State} {n : SlotNo} {mode : Mode} :
    s.bindingFull n mode = true ↔ ∃ l ∈ mode.line, 8 ≤ (s.input l).bindings.length ∧ n ∉ (s.input l).bindings := by
  unfold State.bindingFull
  cases mode.line with
  | none => simp
  | some l =>
    dsimp only
    rw [Bool.and_eq_true, decide_eq_true_iff]
    simp [Config.bindingMax]

theorem port_rebind (n : SlotNo) (old new : Mode) (s : State) (p : PortNo) : (s.rebind n old new).port p = s.port p := by
  obtain ⟨_, _, h⟩ := s.rebind_frame n old new
  rw [h]; rfl

theorem slot_rebind (n : SlotNo) (old new : Mode) (s : State) (m : SlotNo) : (s.rebind n old new).slot m = s.slot m := by
  obtain ⟨_, _, h⟩ := s.rebind_frame n old new
  rw [h]; rfl

/-- Settles O15, by the checks in the order in which the slot operation makes them. -/
theorem configureReplacesMode : Obligations.ConfigureReplacesMode := by
  rintro s p n r mode tag action h hmode hr rfl
  have hof : configureOf (configureBytes (BitVec.ofNat 8 n.val) mode tag action) = some (mode, tag, action) :=
    (configureOf_eq_some (length_configureBytes ..)).2 ⟨hmode, rfl⟩
  have hop : offered .configure (configureBytes (BitVec.ofNat 8 n.val) mode tag action) n = some (.configure n mode tag action) := by
    rw [offered, hof]; rfl
  refine (exec_slotRequest_taken (c := .configure) (by decide) h hop (byteAt_configureBytes ..) hr (if_pos rfl)).trans ?_
  rw [State.takeOp, State.configureOp, hr.held]
  refine congrArg Host.Outcome.next ?_
  dsimp only
  by_cases hidle : r.run = .idle
  case neg => rw [if_pos hidle, if_pos hidle, h.refuse_eq]
  rw [if_neg (not_not.2 hidle), if_neg (not_not.2 hidle)]
  by_cases hclaim : ∃ a ∈ action, (s.output a.line).claim ≠ some r.owner
  · have := mt actionClaimed_iff.1 (not_not.2 hclaim)
    rw [if_pos (by simpa using this), if_pos hclaim, h.refuse_eq]
  rw [if_neg (by simp [actionClaimed_iff.2 hclaim]), if_neg hclaim]
  by_cases hfull : ∃ l ∈ mode.line, 8 ≤ (s.input l).bindings.length ∧ n ∉ (s.input l).bindings
  · rw [if_pos (bindingFull_iff.2 hfull), if_pos hfull, h.refuse_eq]
  rw [if_neg (mt bindingFull_iff.1 hfull), if_neg hfull]
  have hslot : (((s.rebind n r.mode mode).setHeld n { r with mode, tag, action }).slot n).generation = (s.slot n).generation := by
    rw [State.generation_setHeld, slot_rebind]
  rw [hslot, ← rebind_eq]
  exact h.complete_eq (t := (s.rebind n r.mode mode).setHeld n { r with mode, tag, action }) (port_rebind ..) _ _

/-! ## ARM -/

/-- The slot after an arming is taken: in its next generation, with fire count 0 (R3, R42). -/
def armRaised (s : State) (n : SlotNo) (r : Reservation) (run : Run) : State :=
  s.setSlot n { generation := (s.slot n).generation + 1, held := some { r with fireCount := 0, run } }

/-- An ARM answered PAST has raised the generation (R44). -/
def armRefused (s : State) (p : PortNo) (n : SlotNo) (r : Reservation) : State :=
  completed (armRaised s n r r.run) p .arm .past (bytesBE 2 ((s.slot n).generation + 1).toNat ++ bytesBE 8 s.time.toNat)

/-- An ARM that inserts its slot (R44, R45). -/
def armEntered (s : State) (p : PortNo) (n : SlotNo) (r : Reservation) (deadline : TimeCount) : State :=
  let results := bytesBE 2 ((s.slot n).generation + 1).toNat ++ [2] ++ bytesBE 8 deadline.toNat ++ bytesBE 4 0 ++ bytesBE 8 s.time.toNat
  entered { armRaised s n r r.run with engine := .inserting p }
    { slot := n, deadline, windowStart := none, client := .engine p results } { r with fireCount := 0 }
    fun t => completed t p .arm .ok results

/-- An ARM at a deadline under its past policy (R43, R44). -/
def armTimedTo (s : State) (p : PortNo) (n : SlotNo) (r : Reservation) (deadline : Nat) (refuse : Bool) : State :=
  if 2 ^ 64 ≤ deadline then completed s p .arm .range []
  else if refuse ∧ deadline ≤ s.time.toNat then armRefused s p n r
  else armEntered s p n r (BitVec.ofNat 64 deadline)

/-- An ARM that enters no queue (R45, R46). -/
def armStill (s : State) (p : PortNo) (n : SlotNo) (r : Reservation) (run : Run) (code : Byte) (remaining : Nat) : State :=
  completed (armRaised s n r run) p .arm .ok
    (bytesBE 2 ((s.slot n).generation + 1).toNat ++ [code] ++ bytesBE 8 0 ++ bytesBE 4 remaining ++ bytesBE 8 s.time.toNat)

section
variable {s : State} {p : PortNo} {n : SlotNo} {r : Reservation} {params : List Byte}

theorem armAt_eq (h : Granted s p .arm params) (hi : s.insertion = none) (deadline : TimeCount) :
    s.armAt p n r deadline = armEntered s p n r deadline := by
  unfold State.armAt armEntered
  refine insert_eq_entered (r := { r with fireCount := 0 }) ?_ (by exact hi) ?_
  · exact (State.held_setSlot ..).trans (if_pos rfl)
  · refine complete_eq_completed (c := .arm) (params := params) ?_ _ _
    rw [port_place]; exact h.request

theorem armTimed_eq (h : Granted s p .arm params) (hi : s.insertion = none) (deadline : TimeCount) (refuse : Bool) :
    s.armTimed p n r deadline refuse = armTimedTo s p n r deadline.toNat refuse := by
  rw [State.armTimed, armTimedTo, if_neg (Nat.not_le.2 deadline.isLt), armAt_eq h hi, BitVec.ofNat_toNat, BitVec.setWidth_eq]
  split
  · exact h.complete_eq (by rfl) _ _
  · rfl

theorem satTime_of_le {v : Nat} (h : v ≤ Config.timeMax) : satTime v = BitVec.ofNat 64 v := by rw [satTime, Nat.min_eq_left h]

/-- An ARM at a sum beyond the end of the time range is answered RANGE, and at any other is one at that deadline (R43). -/
theorem armTimed_sum_eq (h : Granted s p .arm params) (hi : s.insertion = none) (v : Nat) (refuse : Bool) :
    (if Config.timeMax < v then s.refuse p .range else s.armTimed p n r (satTime v) refuse) = armTimedTo s p n r v refuse := by
  have hmax : Config.timeMax + 1 = 2 ^ 64 := rfl
  split
  · next hv => rw [armTimedTo, if_pos (by omega), h.refuse_eq]
  · next hv =>
    have hv : v ≤ Config.timeMax := Nat.not_lt.1 hv
    rw [armTimed_eq h hi, satTime_toNat, Nat.min_eq_left hv]

theorem armIn_eq (h : Granted s p .arm params) (run : Run) :
    s.armIn p n r run = completed (armRaised s n r run) p .arm .ok (armResult ((s.slot n).generation + 1) run s.time) := by
  rw [State.armIn, setHeld_raiseGeneration]
  exact h.complete_eq (by rfl) _ _

/-- A duration that an open gate starts (R45). -/
theorem armAt_sum_eq (h : Granted s p .arm params) (hi : s.insertion = none) (v : Nat) :
    (if Config.timeMax < v then s.refuse p .range else s.armAt p n r (satTime v)) = armTimedTo s p n r v false := by
  rw [← armTimed_sum_eq h hi]
  simp [State.armTimed]

end

/-- Settles O16, by the form and the mode that it meets. -/
theorem armStartsSlot : Obligations.ArmStartsSlot := by
  intro s p n r form h hform hr howner
  have hof : armFormOf (BitVec.ofNat 8 n.val :: armBytes form) = some form :=
    (armFormOf_eq_some (length_armBytes form)).2 ⟨hform, rfl⟩
  have hop : offered .arm (BitVec.ofNat 8 n.val :: armBytes form) n = some (.arm n form) := by rw [offered, hof]; rfl
  refine (exec_slotRequest_taken (c := .arm) (by decide) h hop (byteAt_slot ..) hr (if_pos howner)).trans ?_
  rw [State.takeOp, State.armOp, hr.held]
  refine congrArg Host.Outcome.next ?_
  dsimp only
  by_cases hidle : r.run = .idle
  case neg => rw [if_pos hidle, if_pos hidle, h.refuse_eq]
  rw [if_neg (not_not.2 hidle), if_neg (not_not.2 hidle)]
  obtain ⟨owner, share, watchers, tag, mode, action, fireCount, run⟩ := r
  cases form with
  | absolute time refuse =>
    cases mode with
    | oneShot | periodic => exact armTimed_eq h hr.quiet time refuse
    | _ => exact h.refuse_eq _
  | relative time refuse =>
    cases mode with
    | oneShot | periodic => exact armTimed_sum_eq h hr.quiet _ refuse
    | _ => exact h.refuse_eq _
  | duration ticks => 
    cases mode with
    | gated line active period repeatLimit =>
      dsimp only [ArmForm.suits]
      by_cases hgate : (s.input line).processed = active
      · exact (if_pos hgate).trans ((armAt_sum_eq h hr.quiet _).trans (if_pos hgate).symm)
      · exact (if_neg hgate).trans ((armIn_eq h _).trans (if_neg hgate).symm)
    | _ => exact h.refuse_eq _
  | none =>
    cases mode with
    | triggered | window => exact armIn_eq h .waiting
    | _ => exact h.refuse_eq _

end Sys2Proof.Claims
end

section
/-! SUPPORT. The requests of the timebase and SET_ATTENTION (sections 5.2 to 5.5 and 7.4): their parameters, their checks in order, and what
they leave (O19, O20, O21, O38). -/

namespace Sys2Proof.Claims

open Sys2Proof.Machine

theorem fieldBE_bytesBE_of_lt {n v : Nat} (h : v < 256 ^ n) : fieldBE (bytesBE n v) 0 n = v := by
  rw [fieldBE_bytesBE, Nat.mod_eq_of_lt h]

/-- A request of the timebase: its parameters' range, then time authority, then its own work (R88). -/
theorem withAuthority_eq {α : Type} {s : State} {p : PortNo} {c : Req} {params : List Byte} (h : Granted s p c params)
    (a : Option α) (k : α → State → State) :
    s.withAuthority p a k = a.elim (completed s p c .badParam []) fun a =>
      if s.authority ≠ some p then completed s p c .noAuthority [] else k a s := by
  cases a with
  | none => exact h.refuse_eq _
  | some a =>
    simp only [State.withAuthority, Option.elim, ite_not, h.refuse_eq]

/-! ## SET_DIVISOR -/

/-- Settles O21, by the range and the authority check. -/
theorem setDivisorIsPending : Obligations.SetDivisorIsPending := by
  intro s p divisor hd h
  refine (h.live_serve _).trans (congrArg Host.Outcome.next ?_)
  rw [withAuthority_eq h, divisorOf, fieldBE_bytesBE_of_lt hd]
  by_cases hrange : 1 ≤ divisor ∧ divisor ≤ 4096
  · rw [if_pos hrange, if_neg (by omega)]
    exact if_congr Iff.rfl rfl (h.complete_eq (by rfl) _ _)
  · rw [if_neg hrange, if_pos (by omega)]; rfl

/-! ## STEP -/

theorem request_arrive (x : HostPort) (now : TimeCount) (n : Notice) : (x.arrive now n).request = x.request := by
  obtain ⟨_, _, _, _, h⟩ := x.arrive_frame now n
  rw [h]

/-- A request whose own port may hear of it is completed like any other: an arrival leaves the request as it is. -/
theorem complete_copies {s t : State} {p : PortNo} {c : Req} {params : List Byte} (h : Granted s p c params)
    (ht : t.port p = s.port p) (sentTo : PortNo → Bool) (notice : PortNo → Notice) (status : Status) (results : List Byte) :
    (copies t sentTo notice).complete p status results = completed (copies t sentTo notice) p c status results := by
  refine complete_eq_completed (params := params) ?_ status results
  rw [port_copies, ht]
  split
  · rw [request_arrive]; exact h.request
  · exact h.request

theorem mem_openPorts {s : State} {q : PortNo} : decide (q ∈ s.openPorts) = ((s.port q).session == .opened) := by
  rw [Bool.eq_iff_iff]; simp [State.openPorts, allPorts, List.mem_filter]

/-- Settles O19, by the checks in order. -/
theorem stepAdvancesTime : Obligations.StepAdvancesTime := by
  intro s p delta hdelta h
  refine (h.live_serve _).trans (congrArg Host.Outcome.next ?_)
  dsimp only
  rw [withAuthority_eq h, stepOf, fieldBE_bytesBE_of_lt hdelta]
  by_cases hrange : 1 ≤ delta ∧ delta ≤ 2 ^ 48 - 1
  case neg => rw [if_neg hrange, if_pos (by omega)]; rfl
  rw [if_pos hrange, if_neg (by omega), Option.elim]
  by_cases hauth : s.authority = some p
  case neg => rw [if_pos hauth, if_pos hauth]
  rw [if_neg (not_not.2 hauth), if_neg (not_not.2 hauth)]
  by_cases hslew : s.slew = none
  case neg => rw [if_pos (Option.isSome_iff_ne_none.2 hslew), if_pos hslew, h.refuse_eq]
  rw [if_neg (by simp [hslew]), if_neg (not_not.2 hslew)]
  have hmax : Config.timeMax + 1 = 2 ^ 64 := rfl
  by_cases hend : Config.timeMax < s.time.toNat + delta
  case pos => rw [if_pos hend, if_pos (by omega), h.refuse_eq]
  have htime : BitVec.ofNat 64 (s.time.toNat + delta) = s.time + BitVec.ofNat 64 delta := by
    rw [BitVec.ofNat_add, BitVec.ofNat_toNat, BitVec.setWidth_eq]
  have hresults : bytesBE 8 (s.time + BitVec.ofNat 64 delta).toNat = bytesBE 8 (s.time.toNat + delta) := by
    rw [← htime, BitVec.toNat_ofNat, Nat.mod_eq_of_lt (by omega)]
  have hnotice : Notice.stepped s.time delta =
      { kind := .stepped, slot := none, generation := none, tag := none, eventTime := s.time + BitVec.ofNat 64 delta,
        ref := some s.time, value := some (BitVec.ofNat 32 delta), count := none, missed := none, late := false, final := false,
        watched := false, big := decide (2 ^ 32 ≤ delta) } := by
    rw [Notice.stepped, htime]; rfl
  have hopen : (State.openPorts { s with time := s.time + BitVec.ofNat 64 delta }).Nodup := (List.nodup_finRange 4).filter _
  rw [if_neg hend, if_neg (by omega), htime, foldl_deliver_eq_copies _ _ hopen, ← hresults]
  simp only [mem_openPorts, hnotice]
  exact complete_copies h (by rfl) _ _ _ _

/-! ## SLEW and CANCEL_SLEW -/

theorem slewOf_bytes (amount : BitVec 32) {span : Nat} (hspan : span < 2 ^ 32) :
    slewOf (bytesBE 4 amount.toNat ++ bytesBE 4 span) =
      if amount = 0 ∨ span = 0 ∨ span < amount.toInt.natAbs then none else some (amount.toInt, span) := by
  have hamount : fieldBE (bytesBE 4 amount.toNat ++ bytesBE 4 span) 0 4 = amount.toNat := fieldBE_word (by decide) amount _
  have hfield : fieldBE (bytesBE 4 amount.toNat ++ bytesBE 4 span) 4 4 = span := by
    rw [fieldBE_append_right 4 (by simp), length_bytesBE]; exact fieldBE_bytesBE_of_lt hspan
  have hzero : amount.toInt = 0 ↔ amount = 0 := by rw [← BitVec.toInt_inj]; rfl
  rw [slewOf, hamount, hfield, BitVec.ofNat_toNat, BitVec.setWidth_eq]
  by_cases h : amount = 0 ∨ span = 0 ∨ span < amount.toInt.natAbs
  · rw [if_pos h, if_neg]
    rw [← hzero] at h; omega
  · rw [if_neg h, if_pos]
    rw [← hzero] at h; omega

/-- Settles O20, by the checks of each in order. -/
theorem slewStartsAndCancels : Obligations.SlewStartsAndCancels := by
  intro s p
  refine ⟨fun amount span hspan h => ?_, fun h => ?_⟩
  · refine (h.live_serve _).trans (congrArg Host.Outcome.next ?_)
    dsimp only
    rw [withAuthority_eq h, slewOf_bytes amount hspan]
    by_cases hrange : amount = 0 ∨ span = 0 ∨ span < amount.toInt.natAbs
    · rw [if_pos hrange, if_pos hrange]; rfl
    rw [if_neg hrange, if_neg hrange, Option.elim]
    refine if_congr Iff.rfl rfl ?_
    by_cases hslew : s.slew = none
    · rw [if_neg (by simp [hslew]), if_neg (not_not.2 hslew)]
      exact h.complete_eq (by rfl) _ _
    · rw [if_pos (Option.isSome_iff_ne_none.2 hslew), if_pos hslew, h.refuse_eq]
  · refine (h.live_serve _).trans (congrArg Host.Outcome.next ?_)
    rw [withAuthority_eq h, Option.elim]
    refine if_congr Iff.rfl rfl ?_
    cases s.slew with
    | none => exact h.refuse_eq _
    | some r =>
      dsimp only
      rw [State.endSlew, deliver_eq_copies]
      exact complete_copies h (by rfl) _ _ _ _

/-! ## SET_ATTENTION -/

theorem attentionOf_bytes (threshold : Byte) (holdoff : Half) :
    attentionOf (threshold :: bytesBE 2 holdoff.toNat) =
      if threshold.toNat < 1 ∨ 32 < threshold.toNat then none else some (threshold.toNat, holdoff) := by
  have hfield : fieldBE (threshold :: bytesBE 2 holdoff.toNat) 1 2 = holdoff.toNat := by
    rw [fieldBE_cons_succ]; exact fieldBE_last_word (by decide) holdoff
  rw [attentionOf, hfield, BitVec.ofNat_toNat, BitVec.setWidth_eq, ← ite_not]
  refine if_congr ?_ rfl rfl
  rw [show byteAt (threshold :: bytesBE 2 holdoff.toNat) 0 = threshold.toNat from rfl]
  omega

/-- Settles O38, by SET_ATTENTION's ranges and by what an expired holdoff does to ATTNn. -/
theorem attentionSettingsAndHoldoff : Obligations.AttentionSettingsAndHoldoff := by
  intro s p
  refine ⟨fun threshold holdoff h => ?_, fun hlive hopen hlist hpos hexpired => ?_⟩
  · refine (h.live_serve _).trans (congrArg Host.Outcome.next ?_)
    dsimp only
    rw [attentionOf_bytes]
    by_cases hrange : threshold.toNat < 1 ∨ 32 < threshold.toNat
    · rw [if_pos hrange, if_pos hrange]; exact h.refuse_eq _
    rw [if_neg hrange, if_neg hrange]
    dsimp only
    rw [BitVec.ofNat_toNat, BitVec.setWidth_eq]
    refine complete_eq_completed (c := .setAttention) (params := threshold :: bytesBE 2 holdoff.toNat) ?_ _ _
    rw [State.port_setPort_self]; exact h.request
  · have hholdoff : (s.port p).holdoffExpired = true := decide_eq_true ⟨hpos, hexpired⟩
    have hattention : (s.port p).attention = true := by
      simp [HostPort.attention, hopen, hlist, hholdoff]
    refine (State.live_of_not_rstn hlive _).trans (congrArg Host.Outcome.next ?_)
    rw [if_pos hholdoff, HostPort.drive, hattention]

end Sys2Proof.Claims
end

section
/-! SUPPORT. Link transactions, chip select and the reset pins (sections 9.1, 9.4 and 9.5): O39, O41 to O47. -/

namespace Sys2Proof.Claims

open Sys2Proof.Machine

/-- A command of the living part that a link takes at its take point (R156). -/
theorem Opened.exec_eq {s : State} {p : PortNo} (h : Opened s p) (k : HostPort → HostPort) :
    (s.live fun s => s.takeTransaction p k) = .next (s.setPort p (k (s.port p))) := by
  rw [State.live_of_not_rstn h.live, h.takeTransaction_eq]

/-! ## SUBMIT -/

theorem ofBytes_frame (code : Byte) (params extra : List Byte) (h : params.length < 256) :
    Frame.ofBytes (code :: BitVec.ofNat 8 params.length :: params ++ extra) = some { code, params } := by
  have hlen : (BitVec.ofNat 8 params.length).toNat = params.length := by simp [Nat.mod_eq_of_lt h]
  rw [List.cons_append, List.cons_append, Frame.ofBytes, hlen, if_pos (by simp), List.take_left]

theorem ofBytes_short {bytes : List Byte} (h : bytes.length < 2 + (bytes.getD 1 0).toNat) : Frame.ofBytes bytes = none := by
  match bytes with
  | [] | [_] => rfl
  | code :: length :: rest =>
    have h : rest.length + 2 < 2 + length.toNat := h
    rw [Frame.ofBytes, if_neg (by omega)]

/-- Settles O41, by the session and the request state that the frame meets. -/
theorem submitTakesOrRefusesFrame : Obligations.SubmitTakesOrRefusesFrame := by
  intro s p h
  refine ⟨fun code params extra hp => ?_, fun bytes hb => ?_⟩
  · refine (h.exec_eq _).trans (congrArg (fun x => Host.Outcome.next (s.setPort p x)) ?_)
    rw [ofBytes_frame code params extra hp]
    by_cases hclosing : (s.port p).session = .closing ∨ (s.port p).teardownPending = true
    · have hstatus : (s.port p).submitStatus = .closing := if_pos hclosing
      rw [if_pos hclosing]; simp only [HostPort.submit, hstatus]; rfl
    · have hstatus : (s.port p).submitStatus = match (s.port p).request with
          | .idle => .accepted
          | .queued _ => .busy
          | .executing _ => .busy
          | .done _ => .unfetched := if_neg hclosing
      rw [if_neg hclosing]
      cases hq : (s.port p).request <;> rw [hq] at hstatus <;> simp only [HostPort.submit, hstatus] <;> rfl
  · refine (h.exec_eq _).trans ?_
    rw [ofBytes_short hb]; rfl

/-! ## FETCH -/

theorem exec_fetchEnd (s : State) (p : PortNo) : exec (.fetchEnd p) s = execFetchEnd p s := rfl

/-- Settles O42, by the request state. -/
theorem fetchReturnsHeldResponse : Obligations.FetchReturnsHeldResponse := by
  refine fun s p => ⟨fun h => ?_, fun reply hlive hl => ?_⟩
  · refine (h.exec_eq _).trans (congrArg (fun x => Host.Outcome.next (s.setPort p x)) ?_)
    cases hq : (s.port p).request <;> simp only [hq] <;> rfl
  · rw [exec_fetchEnd, execFetchEnd, State.live_of_not_rstn hlive, hl]; rfl

/-! ## PEEK -/

/-- The notice record by its fields (R173). -/
theorem stored_bytes_eq (e : Stored) :
    e.bytes = bytesBE 2 e.seq.toNat ++ (e.notice.kind.code :: slotByte e.notice.slot ::
      (bytesBE 2 (e.notice.generation.getD 0).toNat ++
        (flagByte [e.notice.late, e.notice.final, e.notice.watched, e.notice.big] :: 0 ::
          (bytesBE 4 (e.notice.tag.getD 0).toNat ++ (bytesBE 8 e.notice.eventTime.toNat ++ (bytesBE 8 (e.notice.ref.getD 0).toNat ++
            (bytesBE 4 (e.notice.value.getD 0).toNat ++ (bytesBE 2 (e.notice.count.getD 0).toNat ++
              bytesBE 2 (e.notice.missed.getD 0).toNat)))))))) := by
  rw [Stored.bytes]
  simp only [List.append_assoc, List.cons_append, List.nil_append]

theorem toNat_slotByte (n : Option SlotNo) : (slotByte n).toNat = (n.map Fin.val).getD 0 := by
  have h : (n.map Fin.val).getD 0 < 256 := by
    cases n with
    | none => decide
    | some n => exact Nat.lt_trans n.isLt (by decide)
  rw [slotByte, BitVec.toNat_ofNat, Nat.mod_eq_of_lt h]

/-- Settles O39: the record's fields stand one after another (`stored_bytes_eq`), and each is read where the ones before it end. -/
theorem peekCopiesNotice : Obligations.PeekCopiesNotice := by
  intro s p offset h
  refine ⟨fun e he => ⟨e.bytes, ?_, ?_⟩, fun hnone => ?_⟩
  · refine (h.exec_eq _).trans ?_
    rw [HostPort.peekReply, he]; rfl
  · rw [stored_bytes_eq]
    refine ⟨by simp, ?_, ?_, ?_, ?_, ?_, ?_, ?_, ?_, ?_, ?_, ?_, ?_⟩
    · exact fieldBE_word (by decide) e.seq _
    · simp [fieldBE_append_right, fieldBE_one]
    · simp [fieldBE_append_right, fieldBE_cons_succ, fieldBE_one, toNat_slotByte]
    · simp [fieldBE_append_right, fieldBE_cons_succ, fieldBE_word]
    · intro k
      simp only [fieldBE_append_right, length_bytesBE, fieldBE_cons_succ, fieldBE_one, Nat.reduceLeDiff, Nat.reduceSub]
      exact testBit_flagByte (by simp) k
    · simp [fieldBE_append_right, fieldBE_cons_succ, fieldBE_one]
    · simp [fieldBE_append_right, fieldBE_cons_succ, fieldBE_word]
    · simp [fieldBE_append_right, fieldBE_cons_succ, fieldBE_word]
    · simp [fieldBE_append_right, fieldBE_cons_succ, fieldBE_word]
    · simp [fieldBE_append_right, fieldBE_cons_succ, fieldBE_word]
    · simp [fieldBE_append_right, fieldBE_cons_succ, fieldBE_word]
    · simp [fieldBE_append_right, fieldBE_cons_succ, fieldBE_last_word]
  · refine (h.exec_eq _).trans ?_
    rw [HostPort.peekReply, hnone]; rfl

/-! ## TIME and PORTSTAT -/

/-- Settles O43; the flags of the record are read bit by bit (`getLsbD_flagByte`). -/
theorem timeAndPortstatReport : Obligations.TimeAndPortstatReport := by
  intro s p h
  refine ⟨?_, flagByte [(s.port p).teardownPending, (s.port p).overflow, s.authority == some p], fun k => ?_, h.exec_eq _⟩
  · refine (h.exec_eq _).trans ?_
    cases s.slew <;> rfl
  · have hflags : [(s.port p).teardownPending, (s.port p).overflow, s.authority == some p] = [(s.port p).teardownPending,
        decide (∃ e ∈ (s.port p).notices, e.notice.kind = .overflow), decide (s.authority = some p)] := by
      simp only [← overflow_iff, Bool.decide_eq_true]
      rw [show (s.authority == some p) = decide (s.authority = some p) by rw [Bool.eq_iff_iff]; simp]
    rw [getLsbD_flagByte (by simp), hflags]

/-! ## Chip select -/

theorem exec_chipSelectAssertion (s : State) (p : PortNo) : exec (.chipSelectAssertion p) s = .next (s.setPort p { s.port p with
    chipSelect := true
    link := if (s.port p).link = .idle ∧ !(s.port p).chipSelect ∧ !s.rstn then .selected .opened else (s.port p).link }) := rfl

theorem exec_doNothingTransaction (s : State) (p : PortNo) (selector : Byte) :
    exec (.doNothingTransaction p selector) s = execDoNothingTransaction p selector s := rfl

theorem submitBytes_frame (code : Byte) (params rest : List Byte) (h : params.length < 256) :
    submitBytes (code :: BitVec.ofNat 8 params.length :: params ++ rest) = some (code :: BitVec.ofNat 8 params.length :: params) := by
  have hlen : (BitVec.ofNat 8 params.length).toNat = params.length := by simp [Nat.mod_eq_of_lt h]
  rw [List.cons_append, List.cons_append, submitBytes, hlen, if_pos (by simp), List.take_left]

theorem submitBytes_short {bytes : List Byte} (h : bytes.length < 2 + (bytes.getD 1 0).toNat) : submitBytes bytes = none := by
  match bytes with
  | [] | [_] => rfl
  | code :: length :: rest =>
    have h : rest.length + 2 < 2 + length.toNat := h
    rw [submitBytes, if_neg (by omega)]

/-- The six selectors are the bytes 0x51 to 0x56 (R170). -/
theorem ofCode_none {selector : Byte} (h : selector.toNat < 0x51 ∨ 0x56 < selector.toNat) : Selector.ofCode selector = none := by
  refine List.find?_eq_none.2 fun x _ hx => ?_
  have hcode : selector.toNat = x.code.toNat := congrArg BitVec.toNat (eq_of_beq hx).symm
  rw [hcode] at h
  revert h
  cases x <;> decide

/-- Settles O44, by the link's state and by the selector. -/
theorem chipSelectOpensAndEnds : Obligations.ChipSelectOpensAndEnds := by
  intro s p
  refine ⟨fun hlive hl hc => ?_, fun hno => ?_, fun rest => ?_, fun selector hsel => ?_, ?_⟩
  · rw [exec_chipSelectAssertion, if_pos ⟨hl, by simp [hc], by simp [hlive]⟩]
  · rw [exec_chipSelectAssertion, if_neg]
    rintro ⟨hl, hc, -⟩
    obtain h | h := hno
    · rw [hl] at h; cases h
    · simp [h] at hc
  · refine ⟨fun code params hp => ?_, fun hshort => ?_, rfl, fun _ => rfl, fun _ _ => rfl, fun hshort => ?_,
      fun hshort => ?_, rfl, rfl⟩
    · exact congrArg (Option.map _) (submitBytes_frame code params rest hp)
    · exact congrArg (Option.map _) (submitBytes_short hshort)
    · rw [List.eq_nil_of_length_eq_zero (Nat.lt_one_iff.1 hshort)]; rfl
    · match rest, hshort with
      | [], _ | [_], _ => rfl
  · refine ⟨fun rest => ?_, fun h => ?_⟩
    · simp only [decodeTransaction, ofCode_none hsel]
    · have hno : isSelector selector = false := by rw [isSelector, ofCode_none hsel]; rfl
      rw [exec_doNothingTransaction, execDoNothingTransaction, State.live_of_not_rstn h.live, if_neg (by simp [hno]),
        h.takeTransaction_eq]
      rfl
  · change Host.Outcome.next _ = _
    cases (s.port p).link <;> rfl

/-! ## PRSTn -/

/-- Settles O45, by the request and the session state that the assertion meets. -/
theorem portResetAndRelease : Obligations.PortResetAndRelease := by
  refine fun s p hlive => ⟨fun hp => ?_, fun hp => ?_⟩
  · change Host.Outcome.next (if s.rstn = true then _ else if (s.port p).prstn = true then _ else _) = _
    rw [if_neg (by simp [hlive]), if_neg (by simp [hp])]
    refine congrArg (fun x => Host.Outcome.next (s.setPort p x)) ?_
    unfold HostPort.portReset
    cases hq : (s.port p).request <;> cases hs : (s.port p).session <;> simp only [hq, hs]
  · change Host.Outcome.next (if s.rstn = true then _ else if (s.port p).prstn = true then _ else _) = _
    rw [if_neg (by simp [hlive]), if_pos hp]

/-! ## RSTn -/

/-- While RSTn is asserted a command that is no pin's has no effect (R168). -/
theorem exec_of_rstn {s : State} (h : s.rstn = true) {c : Instr}
    (hpins : ∀ p, c ≠ .prstnAssert p ∧ c ≠ .prstnRelease p ∧ c ≠ .chipSelectAssertion p ∧ c ≠ .chipSelectNegation p)
    (hrefclk : ∀ pins tickLater, c ≠ .refclkRisingEdge pins tickLater) (hrelease : ∀ q, c ≠ .rstnRelease q) :
    exec c s = .next s := by
  cases c with
  | prstnAssert p => exact absurd rfl (hpins p).1
  | prstnRelease p => exact absurd rfl (hpins p).2.1
  | chipSelectAssertion p => exact absurd rfl (hpins p).2.2.1
  | chipSelectNegation p => exact absurd rfl (hpins p).2.2.2
  | refclkRisingEdge pins tickLater => exact absurd rfl (hrefclk pins tickLater)
  | rstnRelease q => exact absurd rfl (hrelease q)
  | rstnAssert => exact congrArg Host.Outcome.next (if_pos h)
  | fetchEnd | doNothingTransaction | slewEnd | recordTake | portArbiterGrant | secondStageOperation | takeHead | settling
  | insertCompletion =>
    simp only [exec, execFetchEnd, execDoNothingTransaction, execSlewEnd, execRecordTake, execPortArbiterGrant,
      execSecondStageOperation, execTakeHead, execSettling, execInsertCompletion, State.live_of_rstn h]
  | _ => exact State.live_of_rstn h _

theorem map_strapQuota (straps : BitVec 2) :
    (List.finRange 4).map (strapQuota straps) = match straps.toNat with
      | 0 => [16, 16, 16, 16]
      | 1 => [32, 16, 8, 8]
      | 2 => [24, 24, 8, 8]
      | _ => [64, 0, 0, 0] := by
  revert straps; decide

/-- Settles O46: both edges of RSTn leave `State.deviceReset`, read block by block. -/
theorem deviceResetValues : Obligations.DeviceResetValues := by
  intro s straps resetTo
  have hreset (rstn : Bool) (straps : BitVec 2) (quota : PortNo → Nat) : resetTo (s.deviceReset rstn straps quota) rstn := by
    refine ⟨rfl, rfl, rfl, rfl, rfl, rfl, rfl, rfl, slot_deviceReset, fun q => by rw [quota_deviceReset], rfl, rfl, rfl, rfl, rfl,
      input_deviceReset, output_deviceReset, rfl, rfl, fun q => ?_⟩
    rw [port_deviceReset, resetLink]
    simp only [Bool.or_eq_true]
    rfl
  refine ⟨fun h => ⟨_, congrArg Host.Outcome.next (if_neg (by simp [h])), hreset ..⟩, fun h =>
    ⟨_, congrArg Host.Outcome.next (if_pos h), hreset .., rfl, ?_⟩, fun h => ⟨fun c => exec_of_rstn h, fun p => ⟨?_, ?_, ?_⟩⟩⟩
  · simp only [quota_deviceReset]; exact map_strapQuota straps
  · exact congrArg Host.Outcome.next (if_pos h)
  · exact congrArg Host.Outcome.next (if_pos h)
  · rw [exec_chipSelectAssertion, if_neg (by simp [h])]

/-- The part after reset is one that device reset has left, with every pin negated and every input line LOW (R168, R169). -/
theorem reset_eq_deviceReset :
    State.reset = State.reset.deviceReset false Config.resetStraps (strapQuota Config.resetStraps) := by
  have hinputs : State.reset.inputs = Vector.ofFn fun l => InputLine.reset (State.reset.input l).stage1 (State.reset.input l).stage2 :=
    inputs_eq_ofFn (s := State.reset) fun l => by simp [State.input, State.reset, InputLine.reset]
  have hports : State.reset.ports = Vector.ofFn fun p => { HostPort.reset with
      prstn := (State.reset.port p).prstn, chipSelect := (State.reset.port p).chipSelect,
      link := resetLink false (State.reset.port p).prstn } :=
    ports_eq_ofFn (s := State.reset) fun p => by simp [State.port, State.reset, HostPort.reset, resetLink]
  unfold State.deviceReset
  rw [← hinputs, ← hports]
  rfl

/-- Settles O47: the part after reset is one that device reset has left. -/
theorem resetMeetsEveryLaw : Obligations.ResetMeetsEveryLaw := by
  unfold Obligations.ResetMeetsEveryLaw
  rw [reset_eq_deviceReset]
  refine ⟨fun p => ?_, ⟨fun p => ?_, trivial⟩, List.Pairwise.nil, timerLaw_deviceReset, quotaLaw_deviceReset (strapQuota_sum _),
    watcherLaw_deviceReset, outputLaw_deviceReset, bindingLaw_deviceReset, ⟨by decide, by decide, by decide, nofun, nofun⟩, nofun,
    runLaw_deviceReset, edgeLaw_deviceReset .., detachedLaw_deviceReset, engineLaw_deviceReset, linkLaw_deviceReset⟩
  · rw [port_deviceReset]; rfl
  · rw [port_deviceReset]; exact noticeShape_iff.1 (noticeShape_of_empty rfl rfl)

end Sys2Proof.Claims
end

section
/-! SUPPORT. Recognition and the leaving of a record (sections 6.2 to 6.4), in the words of the statements: O26 and O28. -/

namespace Sys2Proof.Claims

open Sys2Proof.Machine

/-! ## Recognition -/

/-- Line `l` has no binding and no record in the FIFO (R105, R108). -/
def Unserved (s : State) (l : LineNo) : Prop := (s.input l).bindings = [] ∧ ∀ rec ∈ s.fifo, rec.line ≠ l

theorem unserved_iff {s : State} {l : LineNo} : ((s.input l).bindings.isEmpty && !s.lineQueued l) = true ↔ Unserved s l := by
  simp [Unserved, State.lineQueued]

theorem direction_eq (level : Level) : level.direction = if level = .high then .rise else .fall := by cases level <;> rfl

theorem recognize_eq (l : LineNo) (s : State) : s.recognize l = recognized s l := by
  unfold State.recognize recognized
  dsimp only
  by_cases h : (s.input l).bindings = [] ∧ ∀ rec ∈ s.fifo, rec.line ≠ l
  · rw [if_pos (unserved_iff.2 h), if_pos h]; rfl
  · rw [if_neg (mt unserved_iff.1 h), if_neg h, direction_eq]; rfl

theorem edgePending_iff {s : State} {l : LineNo} : s.edgePending l = true ↔ (s.input l).stage2 ≠ (s.input l).synchronized := by
  simp [State.edgePending]

theorem recognizeBelow_eq (early : Nat) (s : State) : s.recognizeBelow early = recognizedBelow early s := by
  unfold State.recognizeBelow State.recognizeAll recognizedBelow
  rw [List.foldl_filter]
  congr 1 with t l : 2
  by_cases hl : l.val < early <;> by_cases ht : (t.input l).stage2 = (t.input l).synchronized <;>
    simp [hl, ht, State.edgePending, recognize_eq]

theorem recognizeAll_eq (s : State) : s.recognizeAll allLines = recognizedBelow 8 s := by
  rw [← recognizeBelow_eq, State.recognizeBelow]
  congr 1

theorem sampleInputs_eq (pins : BitVec 8) (s : State) : s.sampleInputs pins = sampled s pins := by
  unfold State.sampleInputs sampled
  rw [recognizeAll_eq]; rfl

theorem exec_edgeRecognized (s : State) (l : LineNo) : exec (.edgeRecognized l) s = execEdgeRecognized l s := rfl

/-- Settles O26: the edge waits and no lower line's does, so that its recognition is `recognized` (`recognize_eq`). -/
theorem edgeRecognizedThreeWays : Obligations.EdgeRecognizedThreeWays := by
  intro s l hlive hedge hlower
  have hpending : s.edgePending l = true ∧ ∀ k < l, s.edgePending k = false :=
    ⟨edgePending_iff.2 hedge, fun k hk => Bool.eq_false_iff.2 fun h => edgePending_iff.1 h (hlower k hk)⟩
  rw [exec_edgeRecognized, execEdgeRecognized, State.live_of_not_rstn hlive, if_pos hpending, recognize_eq]

/-! ## The place that a record leaves -/

/-- A line brought up to date (R108). -/
def settledLine (i : InputLine) : InputLine := { i with processed := i.synchronized, lost := 0, owed := false }

/-- The owed lines among `ls` are brought up to date. -/
def linesSettled (s : State) (ls : List LineNo) : State :=
  { s with inputs := Vector.ofFn fun l => if l ∈ ls ∧ (s.input l).owed = true then settledLine (s.input l) else s.input l }

theorem input_linesSettled (s : State) (ls : List LineNo) (l : LineNo) :
    (linesSettled s ls).input l = if l ∈ ls ∧ (s.input l).owed = true then settledLine (s.input l) else s.input l := inputs_ofFn l

theorem linesSettled_fifo (s : State) (ls : List LineNo) : (linesSettled s ls).fifo = s.fifo := rfl

/-- The owed lines that come before the rest and have no binding and no record are passed, each brought up to date (R108). -/
theorem offerPlace_append {s : State} {ls : List LineNo} (more : List LineNo) (hls : ls.Nodup)
    (h : ∀ l ∈ ls, (s.input l).owed = true → Unserved s l) :
    State.offerPlace (ls ++ more) s = State.offerPlace more (linesSettled s ls) := by
  induction ls generalizing s with
  | nil =>
    have : linesSettled s [] = s := by simp [linesSettled, with_inputs_self]
    rw [this]; rfl
  | cons l ls ih =>
    obtain ⟨hl, hls⟩ := List.nodup_cons.1 hls
    have hne {k : LineNo} (hk : k ∈ ls) : k ≠ l := fun h => hl (h ▸ hk)
    have hrest {s' : State} (hs : ∀ k ∈ ls, s'.input k = s.input k) (hf : s'.fifo = s.fifo) :
        ∀ k ∈ ls, (s'.input k).owed = true → Unserved s' k := fun k hk => by
      rw [Unserved, hs k hk, hf]; exact h k (List.mem_cons_of_mem l hk)
    rw [List.cons_append, State.offerPlace]
    dsimp only
    by_cases ho : (s.input l).owed = true
    · rw [if_pos ho, if_pos (unserved_iff.2 (h l List.mem_cons_self ho)),
        ih (s := s.setInput l _) hls (hrest (fun k hk => State.input_setInput_of_ne _ (hne hk) _) rfl)]
      refine congrArg (fun f => State.offerPlace more { s with inputs := Vector.ofFn f }) (funext fun k => ?_)
      rw [State.input_setInput]
      by_cases hk : k = l
      · subst hk; simp [hl, ho, InputLine.settle, settledLine]
      · simp [hk]
    · rw [if_neg ho, ih hls (hrest (fun _ _ => rfl) rfl)]
      refine congrArg (fun f => State.offerPlace more { s with inputs := Vector.ofFn f }) (funext fun k => ?_)
      by_cases hk : k = l
      · subst hk; simp [ho]
      · simp [hk]

theorem offerPlace_nil (s : State) : State.offerPlace [] s = s := rfl

/-- The first owed line that has a binding or a record gets a level record where a place remains, and else waits; the lines after it wait
(R108). -/
theorem offerPlace_unserved {s : State} {l : LineNo} (ho : (s.input l).owed = true) (h : ¬Unserved s l) (more : List LineNo) :
    State.offerPlace (l :: more) s =
      if s.fifo.length < 16 then
        { s.setInput l { s.input l with owed := false } with
          fifo := s.fifo ++
            [{ line := l, direction := if (s.input l).synchronized = .high then .rise else .fall, timestamp := s.time, kind := .level }] }
      else s := by
  rw [State.offerPlace]
  dsimp only
  rw [if_pos ho, if_neg (mt unserved_iff.1 h), direction_eq]
  rfl

/-- The lines in line-number order, those below `l` first. -/
theorem allLines_split (l : LineNo) : allLines = allLines.take l.val ++ l :: allLines.drop (l.val + 1) := by
  revert l; decide

theorem mem_take_allLines (l k : LineNo) : k ∈ allLines.take l.val ↔ k < l := by
  revert l k; decide

theorem recordLeaves_eq (early : Nat) (s : State) :
    s.recordLeaves early = State.offerPlace allLines (recognizedBelow early { s with fifo := s.fifo.tail, monitor := .ready }) := by
  rw [State.recordLeaves, recognizeBelow_eq]

theorem recognizedBelow_frame (early : Nat) (s : State) :
    ∃ inputs fifo, recognizedBelow early s = { s with inputs, fifo } := by
  rw [← recognizeBelow_eq]; exact s.recognizeBelow_frame early

theorem goOn_of_applied {s : State} {held : Bool} (h : s.monitor = .applying [] held) (early : Nat) :
    s.goOn early = s.recordLeaves early := by
  have hoffer : s.offerApplication = s := by simp [State.offerApplication, h]
  rw [State.goOn, hoffer, State.leaveIfApplied, h]

/-- Settles O28: the place is offered past the lines that are settled (`offerPlace_append`) to the first that is served. -/
theorem recordLeavesServesOwedLine : Obligations.RecordLeavesServesOwedLine := by
  intro s early left unserved settled
  have htime : left.time = s.time := by
    obtain ⟨_, _, h⟩ := recognizedBelow_frame early { s with fifo := s.fifo.tail, monitor := .ready }
    change (recognizedBelow early { s with fifo := s.fifo.tail, monitor := .ready }).time = s.time
    rw [h]
  have hnodup : allLines.Nodup := List.nodup_finRange 8
  refine ⟨fun h => ?_, fun l ho hl hlower => ?_, fun held hlive hm => ?_⟩
  · have hall := offerPlace_append [] hnodup fun l _ => h l
    rw [List.append_nil] at hall
    rw [recordLeaves_eq, hall]
    refine congrArg (fun f => { left with inputs := Vector.ofFn f }) (funext fun l => ?_)
    simp [allLines, settledLine, settled]
  · have hbelow (k : LineNo) (hk : k ∈ allLines.take l.val) : (left.input k).owed = true → Unserved left k :=
      hlower k ((mem_take_allLines l k).1 hk)
    have hinput (k : LineNo) : (linesSettled left (allLines.take l.val)).input k =
        if k < l ∧ (left.input k).owed = true then settledLine (left.input k) else left.input k := by
      simp only [input_linesSettled, mem_take_allLines]
    have hself : (linesSettled left (allLines.take l.val)).input l = left.input l := by rw [hinput, if_neg (by simp)]
    have hplace := offerPlace_unserved (s := linesSettled left (allLines.take l.val)) (l := l) (hself ▸ ho)
      (by rw [Unserved, hself]; exact hl) (allLines.drop (l.val + 1))
    have hlist : State.offerPlace allLines left =
        State.offerPlace (l :: allLines.drop (l.val + 1)) (linesSettled left (allLines.take l.val)) := by
      conv_lhs => rw [allLines_split l]
      exact offerPlace_append _ (hnodup.sublist (List.take_sublist ..)) hbelow
    rw [recordLeaves_eq, hlist, hplace, hself, ← htime, linesSettled_fifo]
    by_cases hroom : left.fifo.length < 16
    · have hlines : (fun k => if k = l then { left.input l with owed := false } else (linesSettled left (allLines.take l.val)).input k) =
          fun k => if k < l then (if (left.input k).owed = true then settled k else left.input k)
            else if k = l ∧ left.fifo.length < 16 then { left.input l with owed := false } else left.input k := by
        funext k
        rw [hinput]
        by_cases hk : k = l
        · subst hk; simp [hroom]
        · by_cases hkl : k < l <;> simp [hk, hkl, settledLine, settled]
      rw [if_pos hroom, if_pos hroom, setInput_eq, hlines]
      rfl
    · rw [if_neg hroom, if_neg hroom]
      refine congrArg (fun f => { left with inputs := Vector.ofFn f }) (funext fun k => ?_)
      by_cases hkl : k < l <;> simp [hroom, hkl, mem_take_allLines, settledLine, settled]
  · refine (State.live_of_not_rstn hlive _).trans (congrArg Host.Outcome.next (goOn_of_applied hm early))

end Sys2Proof.Claims
end

section
/-! SUPPORT. The take of a record (sections 6.3 and 6.4): the lost-edge reports port by port, and the application set (O27). -/

namespace Sys2Proof.Claims

open Sys2Proof.Machine

/-- A report of lost edges to the owner of a bound slot (R110). -/
def lostNotice (s : State) (rec : EdgeRecord) (lost : Byte) (n : SlotNo) (r : Reservation) : Notice :=
  { plainNotice s .edgeLost n r s.time with ref := some rec.timestamp, value := some (BitVec.ofNat 32 lost.toNat) }

/-- What a port hears of the reports on these slots, in list order (R110). -/
def lostHeard (s : State) (rec : EdgeRecord) (lost : Byte) (ns : List SlotNo) (q : PortNo) (x : HostPort) : HostPort :=
  ns.foldl
    (fun x n => match s.held n with
      | some r => if r.owner = q then x.arrive s.time (lostNotice s rec lost n r) else x
      | none => x)
    x

/-- The reports, slot by slot, change the ports alone, and each port as it hears them. -/
theorem foldl_lost_eq (s : State) (rec : EdgeRecord) (lost : Byte) (ns : List SlotNo) (ports : Vector HostPort 4) :
    ns.foldl (fun (t : State) n => match t.held n with
      | some r => t.deliver { Notice.ofSlot .edgeLost n (t.slot n).generation r t.time with
          ref := some rec.timestamp, value := some (BitVec.ofNat 32 lost.toNat) } r.owner
      | none => t) { s with ports } =
    { s with ports := Vector.ofFn fun q => lostHeard s rec lost ns q (State.port { s with ports } q) } := by
  induction ns generalizing ports with
  | nil => 
    have : ports = Vector.ofFn fun q => State.port { s with ports } q := ports_eq_ofFn (s := s) fun _ => rfl
    exact congrArg (fun v => { s with ports := v }) this
  | cons n ns ih =>
    rw [List.foldl_cons]
    have hheld : State.held { s with ports } n = s.held n := rfl
    rw [hheld]
    cases hr : s.held n with
    | none =>
      refine (ih ports).trans ?_
      simp only [lostHeard, List.foldl_cons, hr]
    | some r =>
      refine (ih _).trans ?_
      refine congrArg (fun f => { s with ports := Vector.ofFn f }) (funext fun q => ?_)
      simp only [lostHeard, List.foldl_cons, hr]
      refine congrArg (ns.foldl _) ?_
      change (State.deliver _ { s with ports } r.owner).port q = _
      rw [State.port_deliver]
      by_cases hq : q = r.owner
      · subst hq; rw [if_pos rfl, if_pos rfl]; rfl
      · rw [if_neg hq, if_neg (Ne.symm hq)]

/-- The lost-edge report of a record's take: each port hears of the bound slots that are its own, and the count is cleared (R110). -/
theorem reportLost_eq (s : State) (rec : EdgeRecord) :
    s.reportLost rec =
      State.setInput
        { s with
          ports := Vector.ofFn fun q =>
            if (s.input rec.line).lost = 0 then s.port q
            else lostHeard s rec (s.input rec.line).lost (s.input rec.line).bindings q (s.port q) }
        rec.line { s.input rec.line with lost := 0 } := by
  unfold State.reportLost
  dsimp only
  by_cases h : (s.input rec.line).lost = 0
  · have hports : s.ports = Vector.ofFn s.port := ports_eq_ofFn (v := s.ports) (s := s) fun _ => rfl
    have hinputs : s.inputs.set rec.line { s.input rec.line with lost := 0 } = s.inputs := by
      rw [show ({ s.input rec.line with lost := 0 } : InputLine) = s.input rec.line by rw [← h]]
      exact Vector.set_getElem_self ..
    simp only [h, if_true, State.setInput, hinputs, ← hports]
  · have hfold := foldl_lost_eq s rec (s.input rec.line).lost (s.input rec.line).bindings s.ports
    simp only [h, if_false]
    exact congrArg (fun t : State => t.setInput rec.line { t.input rec.line with lost := 0 }) hfold

theorem setInput_setInput (s : State) (l : LineNo) (x y : InputLine) : (s.setInput l x).setInput l y = s.setInput l y := by
  rw [State.setInput, State.setInput_inputs, Vector.set_set]; rfl

theorem isGated_eq (s : State) (n : SlotNo) : s.isGated n = (s.held n).any fun r => r.mode.isGated := by
  unfold State.isGated; cases s.held n <;> rfl

theorem exec_recordTake (s : State) (early : Nat) : exec (.recordTake early) s = execRecordTake s early := rfl

/-- A record with an empty application set leaves as soon as it is taken (R113). -/
theorem leaveIfApplied_applying (early : Nat) (set : List SlotNo) (s : State) :
    State.leaveIfApplied early { s with monitor := .applying set false } =
      if set = [] then s.recordLeaves early else { s with monitor := .applying set false } := by
  cases set <;> rfl

/-- The line of a record that is taken: its lost edges reported and its level processed (R110, R111). -/
def recordTaken (s : State) (rec : EdgeRecord) : State :=
  (s.reportLost rec).setInput rec.line { (s.reportLost rec).input rec.line with processed := rec.direction.level }

theorem exec_recordTake_of_ready {s : State} {rec : EdgeRecord} {more : List EdgeRecord} (hlive : s.rstn = false)
    (hm : s.monitor = .ready) (hfifo : s.fifo = rec :: more) (early : Nat) :
    exec (.recordTake early) s = .next (State.leaveIfApplied early
      { recordTaken s rec with monitor := .applying ((recordTaken s rec).applicationSet rec) false }) := by
  rw [exec_recordTake, execRecordTake, State.live_of_not_rstn hlive, hm, hfifo]; rfl

/-- Settles O27: the reports (`reportLost_eq`), the processed level, the application set, and whether the set leaves the record in hand. -/
theorem recordTakeReportsAndFixesSet : Obligations.RecordTakeReportsAndFixesSet := by
  intro s early rec more hlive hm hfifo i set lostNotice' reported taken
  have htaken : recordTaken s rec = taken := by
    rw [recordTaken, reportLost_eq, setInput_setInput, State.input_setInput_self]
    cases hd : rec.direction <;> simp only [taken, hd] <;> rfl
  have hbindings : (taken.input rec.line).bindings = i.bindings := by
    rw [← htaken, recordTaken, State.input_setInput_self, reportLost_eq, State.input_setInput_self]
  have hset : taken.applicationSet rec = set := by
    unfold State.applicationSet
    rw [hbindings]
    simp only [set]
    cases rec.kind with
    | edge => rfl
    | level => exact List.filter_congr fun n _ => isGated_eq taken n
  rw [exec_recordTake_of_ready hlive hm hfifo, htaken, hset]
  exact congrArg Host.Outcome.next (leaveIfApplied_applying early set taken)

end Sys2Proof.Claims
end

section
/-! SUPPORT. Tick events and REFCLK edges (sections 5.1, 5.2, 5.5 and 6.2): O22 and O23. -/

namespace Sys2Proof.Claims

open Sys2Proof.Machine

/-! ## The advance -/

theorem advance_frame (doneFirst : Bool) (s : State) : ∃ time slew ports, s.advance doneFirst = { s with time, slew, ports } := by
  unfold State.advance
  split
  · exact ⟨_, _, _, rfl⟩
  · dsimp only
    split
    · split <;> exact ⟨_, _, _, rfl⟩
    · exact ⟨_, _, _, rfl⟩

theorem takeTick_frame (early : Nat) (doneFirst : Bool) (s : State) :
    (s.takeTick early doneFirst).rstn = s.rstn ∧ (s.takeTick early doneFirst).tickDue = false := by
  obtain ⟨inputs, fifo, hb⟩ := s.recognizeBelow_frame early
  obtain ⟨_, _, _, ha⟩ := advance_frame doneFirst (s.recognizeBelow early).endDivision
  rw [State.takeTick, ha, hb]; exact ⟨rfl, rfl⟩

/-- One tick event at a port's holdoff counter in the words of the statements (R135). -/
theorem countTick_eq (x : HostPort) :
    x.countTick = if x.notices = [] then x
      else HostPort.drive { x with holdoffCounter := BitVec.ofNat 16 (min (x.holdoffCounter.toNat + 1) 65535) } := by
  unfold HostPort.countTick
  cases x.notices <;> rfl

theorem port_countHoldoffs (s : State) (q : PortNo) : s.countHoldoffs.port q = (s.port q).countTick := ports_ofFn q

theorem port_endSlew (r : Slew) (s : State) (q : PortNo) :
    (s.endSlew r).port q = if q = r.initiator then (s.port q).arrive s.time (Notice.slewDone r s.time) else s.port q := by
  rw [State.endSlew, State.port_deliver]
  split
  · next h => subst h; rfl
  · rfl

/-- One tick without a slew (R86). -/
theorem advance_of_none {s : State} (h : s.slew = none) (doneFirst : Bool) :
    s.advance doneFirst =
      { s with time := satTime (s.time.toNat + 1), slew := none, ports := Vector.ofFn fun q => (s.port q).countTick } := by
  rw [State.advance, h]
  rfl

/-- One tick of a slew that goes on (R96). -/
theorem advance_of_some {s : State} {r : Slew} (h : s.slew = some r) (hticks : r.tick.1.ticksRemaining ≠ 0) (doneFirst : Bool) :
    s.advance doneFirst =
      { s with
        time := satTime (s.time.toNat + r.tick.2), slew := some r.tick.1, ports := Vector.ofFn fun q => (s.port q).countTick } := by
  rw [State.advance, h]
  exact if_neg hticks

/-- The last tick of a slew: SLEW_DONE arrives before or after the holdoff counters count it (R97, R135). -/
theorem advance_of_last {s : State} {r : Slew} (h : s.slew = some r) (hticks : r.tick.1.ticksRemaining = 0) (doneFirst : Bool) :
    s.advance doneFirst =
      { s with
        time := satTime (s.time.toNat + r.tick.2), slew := none,
        ports := Vector.ofFn fun q =>
          if q ≠ r.tick.1.initiator then (s.port q).countTick
          else
            let now := satTime (s.time.toNat + r.tick.2)
            let done := Notice.slewDone r.tick.1 now
            if doneFirst then ((s.port q).arrive now done).countTick else (s.port q).countTick.arrive now done } := by
  let t : State := { s with time := satTime (s.time.toNat + r.tick.2), slew := some r.tick.1 }
  have hadvance : s.advance doneFirst =
      if doneFirst = true then (t.endSlew r.tick.1).countHoldoffs else t.countHoldoffs.endSlew r.tick.1 := by
    rw [State.advance, h]
    exact if_pos hticks
  rw [hadvance]
  cases doneFirst with
  | true =>
    refine congrArg (fun f => { t with slew := none, ports := Vector.ofFn f }) (funext fun q => ?_)
    rw [port_endSlew]
    by_cases hq : q = r.tick.1.initiator <;> simp [hq, t, State.port]
  | false =>
    rw [if_neg Bool.false_ne_true, State.endSlew, deliver_eq_copies]
    refine congrArg (fun f => { t with slew := none, ports := Vector.ofFn f }) (funext fun q => ?_)
    have hport : State.port { t.countHoldoffs with slew := none } q = (s.port q).countTick := port_countHoldoffs t q
    rw [hport]
    by_cases hq : q = r.tick.1.initiator
    · subst hq; simp; rfl
    · simp [hq]

/-- One tick of a slew by the accumulator (R96). -/
theorem tick_eq (r : Slew) :
    r.tick =
      ({ r with
          remaining := if r.span ≤ r.accumulator + r.amount.natAbs then (if 0 < r.amount then r.remaining - 1 else r.remaining + 1)
            else r.remaining
          ticksRemaining := r.ticksRemaining - 1
          accumulator := if r.span ≤ r.accumulator + r.amount.natAbs then r.accumulator + r.amount.natAbs - r.span
            else r.accumulator + r.amount.natAbs },
        if r.span ≤ r.accumulator + r.amount.natAbs then (if 0 < r.amount then 2 else 0) else 1) := by
  unfold Slew.tick
  dsimp only
  split_ifs <;> rfl

theorem exec_tickEvent (s : State) (pins : BitVec 8) (early : Nat) (doneFirst : Bool) :
    exec (.tickEvent pins early doneFirst) s = execTickEvent pins early doneFirst s := rfl

theorem exec_slewEnd (s : State) (pins : BitVec 8) (early : Nat) (doneFirst : Bool) :
    exec (.slewEnd pins early doneFirst) s = execSlewEnd pins early doneFirst s := rfl

/-! ## REFCLK -/

theorem exec_refclkRisingEdge (s : State) (pins : BitVec 8) (tickLater : Bool) :
    exec (.refclkRisingEdge pins tickLater) s = execRefclkRisingEdge pins s tickLater := rfl

theorem tickNext_iff {s : State} : s.tickNext = true ↔ s.divisor ≤ s.divider + 1 := decide_eq_true_iff

/-- A REFCLK edge outside RSTn takes a tick that is due first, and then acts (R85, R103). -/
theorem exec_refclkRisingEdge_live {s : State} (hlive : s.rstn = false) (pins : BitVec 8) (tickLater : Bool) :
    exec (.refclkRisingEdge pins tickLater) s =
      .next (State.refclkEdge pins tickLater (if s.tickDue = true then s.takeTick 0 false else s)) := by
  rw [exec_refclkRisingEdge, execRefclkRisingEdge, if_neg (by simp [hlive])]

/-- Settles O23, by RSTn, a tick that is due and the divider count. -/
theorem refclkSamplesAndDivides : Obligations.RefclkSamplesAndDivides := by
  intro s pins tickLater
  refine ⟨fun hlive hdue hlow => ?_, fun hlive hdue hend => ?_, fun hlive hdue => ?_, fun hrstn => ?_⟩
  · have hnext : ¬s.tickNext = true := fun h => by have := tickNext_iff.1 h; omega
    rw [exec_refclkRisingEdge_live hlive, if_neg (by simp [hdue]), State.refclkEdge, if_neg hnext, sampleInputs_eq]
  · have hnext : s.tickNext = true := tickNext_iff.2 hend
    refine ⟨⟨(s.sampleInputs pins).takeTick 0 false, ?_, ?_⟩, ?_⟩
    · rw [exec_refclkRisingEdge_live hlive, if_neg (by simp [hdue]), State.refclkEdge, if_pos hnext, if_neg (by simp)]
    · rw [exec_tickEvent, execTickEvent, State.live_of_not_rstn hlive, State.tick_of_next hdue hnext]
    · rw [exec_refclkRisingEdge_live hlive, if_neg (by simp [hdue]), State.refclkEdge, if_pos hnext, if_pos rfl, sampleInputs_eq]
  · obtain ⟨hrstn, htaken⟩ := takeTick_frame 0 false s
    refine ⟨s.takeTick 0 false, State.refclkEdge pins tickLater (s.takeTick 0 false), ?_, htaken, ?_, ?_⟩
    · rw [exec_tickEvent, execTickEvent, State.live_of_not_rstn hlive, State.tick_of_due hdue]
    · rw [exec_refclkRisingEdge_live (hrstn.trans hlive), if_neg (by simp [htaken])]
    · rw [exec_refclkRisingEdge_live hlive, if_pos hdue]
  · rw [exec_refclkRisingEdge, execRefclkRisingEdge, if_pos hrstn]; rfl

/-! ## TICK_EVENT -/

/-- Settles O22: the sampling and the recognitions leave all but the input lines and the FIFO, and the advance is by the slew. -/
theorem tickAdvancesTime : Obligations.TickAdvancesTime := by
  intro s pins early doneFirst hlive htick held counted ticked
  have htake : exec (.tickEvent pins early doneFirst) s =
      .next ((recognizedBelow early (if s.tickDue = true then s else sampled s pins)).endDivision.advance doneFirst) := by
    rw [exec_tickEvent, execTickEvent, State.live_of_not_rstn hlive]
    by_cases hdue : s.tickDue = true
    · rw [State.tick_of_due hdue, State.takeTick, recognizeBelow_eq, if_pos hdue]
    · have hnext : s.tickNext = true := tickNext_iff.2 (htick.resolve_left hdue)
      rw [State.tick_of_next (Bool.eq_false_iff.2 hdue) hnext, State.takeTick, recognizeBelow_eq, sampleInputs_eq, if_neg hdue]
  obtain ⟨inputs, fifo, hframe⟩ : ∃ inputs fifo,
      recognizedBelow early (if s.tickDue = true then s else sampled s pins) = { s with inputs, fifo } := by
    obtain ⟨inputs, fifo, h⟩ := recognizedBelow_frame early (if s.tickDue = true then s else sampled s pins)
    obtain ⟨inputs', fifo', h'⟩ := recognizedBelow_frame 8 s
    rw [h]
    split
    · exact ⟨_, _, rfl⟩
    · exact ⟨inputs, fifo, by rw [sampled, h']⟩
  have hcounted : counted = HostPort.countTick := funext fun x => (countTick_eq x).symm
  have hticked (advance : Nat) (slew : Option Slew) (port : PortNo → HostPort) :
      ticked advance slew port =
        { State.endDivision { s with inputs, fifo } with
          time := satTime (s.time.toNat + advance), slew, ports := Vector.ofFn port } := by
    simp only [ticked, hframe]; rfl
  rw [hframe] at htake
  refine ⟨fun hnone => ?_, fun r hr hone => ?_⟩
  · rw [htake, advance_of_none (s := State.endDivision { s with inputs, fifo }) hnone, hticked, hcounted]; rfl
  intro sum corrects advance remaining
  have htick : r.tick = ({ r with
      remaining, ticksRemaining := r.ticksRemaining - 1, accumulator := if corrects then sum - r.span else sum }, advance) := by
    rw [tick_eq]; simp only [remaining, advance, corrects, sum, decide_eq_true_eq]
  refine ⟨fun hmore => ?_, fun hlast => ?_⟩
  · have hticks : r.tick.1.ticksRemaining ≠ 0 := by rw [slew_tick_ticksRemaining]; omega
    rw [htake, advance_of_some (s := State.endDivision { s with inputs, fifo }) hr hticks, htick, hticked, hcounted]; rfl
  · intro now done ended
    have hticks : r.tick.1.ticksRemaining = 0 := by rw [slew_tick_ticksRemaining]; omega
    have hended : exec (.tickEvent pins early doneFirst) s = exec (.slewEnd pins early doneFirst) s := by
      rw [exec_tickEvent, exec_slewEnd, execTickEvent, execSlewEnd, State.live_of_not_rstn hlive, State.live_of_not_rstn hlive, hr]
      simp [hlast]
    rw [← hended, and_self]
    rw [htake, advance_of_last (s := State.endDivision { s with inputs, fifo }) hr hticks, htick]
    simp only [ended]
    rw [hticked, hcounted]
    rfl

end Sys2Proof.Claims
end

section
/-! SUPPORT. The stages of a firing in the words of the statements, its take and its settling (chapter 4): O32 and O33. -/

namespace Sys2Proof.Claims

open Sys2Proof.Machine

/-! ## The stages -/

/-- The second stage for some ports (R73). -/
theorem deliverCopies_eq_told {s : State} {f : FiringRecord} {r : Reservation} (hf : s.firing = some f)
    (hr : s.held f.slot = some r) (sent : BitVec 4) : s.deliverCopies sent = told s f r fun q => sent.getLsbD q := by
  unfold told
  split
  · next kind hk =>
    obtain ⟨ports, h, hports⟩ := State.deliverCopies_of_firing hf hr hk sent
    rw [h, ports_eq_ofFn (s := s) hports]
    rfl
  · next hk => simp [State.deliverCopies, hf, hk]

theorem allOnes_names_all : (fun q : PortNo => (BitVec.allOnes 4).getLsbD q) = fun _ => true :=
  funext (by decide)

theorem told_frame {s : State} {f : FiringRecord} (hf : s.firing = some f) (r : Reservation) (sentTo : PortNo → Bool) :
    ∃ ports copiesDue, told s f r sentTo = { s with ports, firing := some { f with copiesDue } } := by
  unfold told
  split
  · exact ⟨_, _, rfl⟩
  · exact ⟨s.ports, f.copiesDue, by rw [← hf]⟩

/-- The third stage (R74). -/
theorem applyAction_of_firing {s : State} {f : FiringRecord} {r : Reservation} (hf : s.firing = some f)
    (hr : s.held f.slot = some r) :
    s.applyAction = match r.action with
      | some a =>
        if f.actionDue then
          State.setOutput { s with firing := some { f with actionDue := false } } a.line
            { s.output a.line with level := a.action.apply (s.output a.line).level }
        else s
      | none => s := by
  unfold State.applyAction
  rw [hf]
  dsimp only
  rw [hr]
  rfl

/-- The second and third stages together (R73, R74). -/
theorem notifyAndAct_eq_acted {s : State} {f : FiringRecord} {r : Reservation} (hf : s.firing = some f)
    (hr : s.held f.slot = some r) : s.notifyAndAct = acted s f r := by
  obtain ⟨ports, copiesDue, htold⟩ := told_frame hf r fun _ => true
  unfold State.notifyAndAct acted
  rw [deliverCopies_eq_told hf hr, allOnes_names_all, htold,
    applyAction_of_firing (s := { s with ports, firing := some { f with copiesDue } }) rfl hr]
  cases r.action with
  | none => rfl
  | some a =>
    by_cases hdue : f.actionDue = true
    · have hlevel : a.action.apply (s.output a.line).level = match a.action, (s.output a.line).level with
          | .set, _ => .high
          | .clear, _ => .low
          | .toggle, .low => .high
          | .toggle, .high => .low := by cases a.action <;> cases (s.output a.line).level <;> rfl
      dsimp only
      rw [if_pos hdue, if_pos hdue]
      exact congrArg (fun level =>
        { State.setOutput { s with ports } a.line { s.output a.line with level } with
          firing := some { f with copiesDue, actionDue := false } }) hlevel
    · dsimp only
      rw [if_neg hdue, if_neg hdue]

theorem actionHeard_iff {s : State} {f : FiringRecord} (hf : s.firing = some f) (sent : BitVec 4) :
    s.actionHeard sent = true ↔ f.actionDue = true ∧
      ∃ q : PortNo, f.copiesDue[q] = true ∧ sent.getLsbD q = true ∧ (s.port q).session = .opened := by
  simp [State.actionHeard, hf, allPorts, and_assoc]

/-- A firing that is carried on, in the words of the statements (R72 to R74). -/
theorem carryFiring_eq_carried {s : State} {f : FiringRecord} {r : Reservation} (hf : s.firing = some f)
    (hr : s.held f.slot = some r) (upTo : FiringStage) : s.carryFiring upTo = carried s f r upTo := by
  cases upTo with
  | action => exact notifyAndAct_eq_acted hf hr
  | copies sent =>
    unfold carried
    by_cases h : s.actionHeard sent = true
    · rw [State.carryFiring_heard h, notifyAndAct_eq_acted hf hr]
      exact (if_pos ((actionHeard_iff hf sent).1 h)).symm
    · rw [State.carryFiring_unheard (Bool.eq_false_iff.2 h), deliverCopies_eq_told hf hr]
      exact (if_neg fun h' => h ((actionHeard_iff hf sent).2 h')).symm

/-! ## TAKE_HEAD -/

theorem exec_takeHead (s : State) (upTo : FiringStage) : exec (.takeHead upTo) s = execTakeHead s upTo := rfl

/-- The take of the due head, with the model's own firing record (R32, R65, R77). -/
theorem exec_takeHead_of_due {s : State} {e : Entry} {more : List Entry} {r : Reservation} {deadline : TimeCount}
    {start : Option TimeCount} (hlive : s.rstn = false) (hidle : s.firing = none) (hquiet : s.insertion = none)
    (hqueue : s.queue = e :: more) (hdue : e.deadline.toNat ≤ s.time.toNat) (hr : s.held e.slot = some r)
    (hrun : r.run = .armed deadline start) (upTo : FiringStage) :
    let f := FiringRecord.compute e.slot r e.deadline s.time
    exec (.takeHead upTo) s = .next
      (carried (State.setHeld { s with queue := more, firing := some f } e.slot { r with run := .firing e.deadline start }) f
        { r with run := .firing e.deadline start } upTo) := by
  intro f
  have hready : s.due = true := by simp [State.due, hquiet, hqueue, hdue]
  rw [exec_takeHead, execTakeHead, State.live_of_not_rstn hlive]
  rw [hidle, hqueue]
  dsimp only
  rw [if_pos hready, hr]
  dsimp only
  rw [hrun]
  have hheld : State.held (State.setHeld { s with queue := more, firing := some f } e.slot
      { r with run := .firing e.deadline start }) f.slot = some { r with run := .firing e.deadline start } :=
    State.held_setHeld_self ..
  exact congrArg Host.Outcome.next (carryFiring_eq_carried rfl hheld upTo)

/-- What a firing reads of its slot is not the slot's state. -/
theorem carried_with_run (s : State) (f : FiringRecord) (r : Reservation) (run : Run) (upTo : FiringStage) :
    carried s f { r with run } upTo = carried s f r upTo := rfl

/-- A period, where the mode has one, is not 0 (R38). -/
theorem period_pos {m : Mode} {p : Word} (hm : m.inRange = true) (hp : m.period = some p) : 0 < p.toNat := by
  have hne : p ≠ 0 := by
    cases m with
    | oneShot => cases hp
    | periodic period n => cases hp; simpa [Mode.inRange] using hm
    | gated line active period n =>
      cases (show period = some p from hp)
      simp only [Mode.inRange, periodInRange, bne_iff_ne] at hm
      simpa using hm
    | triggered line edge delay period n restart rewait =>
      cases (show period = some p from hp)
      simp only [Mode.inRange, periodInRange, bne_iff_ne] at hm
      simpa using hm
    | window => cases hp
  exact Nat.pos_of_ne_zero fun h => hne (BitVec.eq_of_toNat_eq h)

theorem isFinal_iff (m : Mode) (fireCount : Nat) :
    m.isFinal fireCount = true ↔
      m = .oneShot ∨ (m.isWindow = false ∧ (m.period = none ∨ (m.repeatLimit ≠ 0 ∧ m.repeatLimit ≤ fireCount))) := by
  cases m with
  | oneShot => simp [Mode.isFinal]
  | window => simp [Mode.isFinal, Mode.isWindow]
  | periodic period n => simp [Mode.isFinal, Mode.isWindow, Mode.period]
  | gated line active period n => cases period <;> simp [Mode.isFinal, Mode.isWindow, Mode.period]
  | triggered line edge delay period n restart rewait => cases period <;> simp [Mode.isFinal, Mode.isWindow, Mode.period]

/-- Settles O32, field by field of the firing record; the number of periods passed is the lateness over the period, plus 1. -/
theorem takeHeadFiresSlot : Obligations.TakeHeadFiresSlot := by
  intro s upTo e more r deadline start hlive hidle hquiet hqueue hdue hr hrun hm
  let f := FiringRecord.compute e.slot r e.deadline s.time
  have hlate : f.late.toNat = s.time.toNat - e.deadline.toNat := by
    have := s.time.isLt
    simp only [f, FiringRecord.compute, BitVec.toNat_ofNat]; omega
  refine ⟨f, rfl, rfl, rfl, hlate, fun hnone => ?_, fun p hp => ?_, rfl, satHalf_toNat _, satHalf_toNat _, isFinal_iff .., ?_,
    fun q => ?_, rfl, ?_⟩
  · simp [f, FiringRecord.compute, hnone, passedPeriods]
  · have hp : r.mode.period = some p := hp
    have hpos := period_pos hm hp
    have hpassed : f.periodsPassed = (s.time.toNat - e.deadline.toNat) / p.toNat + 1 := by
      simp [f, FiringRecord.compute, hp, passedPeriods]
    have hbelow (k : Nat) (hk : 1 ≤ k) :
        s.time.toNat < e.deadline.toNat + k * p.toNat ↔ (s.time.toNat - e.deadline.toNat) / p.toNat < k := by
      rw [Nat.div_lt_iff_lt_mul hpos]; omega
    rw [hpassed]
    refine ⟨Nat.le_add_left 1 _, (hbelow _ (Nat.le_add_left 1 _)).2 (Nat.lt_succ_self _),
      fun k hk hlt => by have := (hbelow k hk).1 hlt; omega, ?_⟩
    simp only [f, FiringRecord.compute, hp]
    rfl
  · cases hmode : r.mode <;> simp [f, FiringRecord.compute, hmode, Mode.firingNotice]
  · simp [f, FiringRecord.compute, hears]
  · exact exec_takeHead_of_due hlive hidle hquiet hqueue hdue hr hrun upTo

/-! ## SETTLING -/

theorem exec_settling (s : State) (upTo : Option FiringStage) : exec (.settling upTo) s = execSettling s upTo := rfl

theorem acted_frame {s : State} {f : FiringRecord} (hf : s.firing = some f) (r : Reservation) :
    ∃ ports outputs copiesDue actionDue,
      acted s f r = { s with ports, outputs, firing := some { f with copiesDue, actionDue } } := by
  obtain ⟨ports, copiesDue, htold⟩ := told_frame hf r fun _ => true
  unfold acted
  rw [htold]
  cases r.action with
  | none => exact ⟨_, _, _, f.actionDue, rfl⟩
  | some a =>
    dsimp only
    split
    · exact ⟨_, _, _, _, rfl⟩
    · exact ⟨_, _, _, f.actionDue, rfl⟩

/-- The end of a firing in the words of the statements (R76, R109). -/
def unitIdle (phase : MonitorPhase) (t : State) : State :=
  { t with
    firing := none
    monitor := match phase with
      | .holding rest => .applying rest true
      | m => m }

/-- A firing that settles its slot in a state ends (R59, R76). -/
theorem settle_of_leave {s : State} {f : FiringRecord} {r : Reservation} {run : Run} (hf : s.firing = some f)
    (hr : s.held f.slot = some r) (h : s.settlement f { r with fireCount := f.fireCount } = .leave run) :
    s.settle = unitIdle s.monitor (s.setHeld f.slot { r with fireCount := f.fireCount, run }) := by
  unfold State.settle
  simp only [hf, hr, h]
  rfl

/-- A firing whose run continues is inserted again (R59, R76). -/
theorem settle_of_insert {s : State} {f : FiringRecord} {r : Reservation} {next : TimeCount} (hf : s.firing = some f)
    (hr : s.held f.slot = some r) (hquiet : s.insertion = none)
    (h : s.settlement f { r with fireCount := f.fireCount } = .insert next) :
    s.settle = entered (s.setHeld f.slot { r with fireCount := f.fireCount })
      { slot := f.slot, deadline := next, windowStart := none, client := .dispatch } { r with fireCount := f.fireCount }
      (unitIdle s.monitor) := by
  unfold State.settle
  simp only [hf, hr, h]
  refine insert_eq_entered (State.held_setHeld_self ..) hquiet ?_
  rw [State.finishInsert, State.place_of_held (State.held_setHeld_self ..)]
  rfl

/-- A firing settled by mode (R59 to R61), for a firing record that agrees with the run. -/
theorem settlement_eq {s : State} {f : FiringRecord} {r : Reservation} {next deadline : TimeCount} {start : Option TimeCount}
    (hrun : r.run = .firing deadline start) (hnext : f.final = false → r.mode.period ≠ none → f.nextDeadline = some next)
    (hfinal : r.mode.period = none → r.mode.isWindow = false → f.final = true) {mode : Mode} (hmode : r.mode = mode) :
    s.settlement f r = match (generalizing := false) mode with
      | .oneShot => .leave .idle
      | .periodic _ _ => if f.final then .leave .idle else .insert next
      | .gated line active period _ =>
        if f.final then .leave .idle
        else if (s.input line).processed = active then .insert next
        else .leave (.paused (period.getD 0))
      | .triggered _ _ _ _ _ _ rewait => if f.final then .leave (if rewait then .waiting else .idle) else .insert next
      | .window _ _ _ _ _ _ => .leave (.lapsed (start.getD 0)) := by
  have hagain (hmore : ¬f.final = true) (hm : r.mode.isWindow = false) : f.again = .insert next := by
    have hperiod : r.mode.period ≠ none := fun h => hmore (hfinal h hm)
    rw [FiringRecord.again, hnext (Bool.eq_false_iff.2 hmore) hperiod]
  unfold State.settlement
  rw [hmode]
  cases mode with
  | oneShot => rfl
  | periodic period n =>
    by_cases hf : f.final = true
    · simp [hf]
    · simp [hf, hagain hf (by rw [hmode]; rfl)]
  | gated line active period n =>
    by_cases hf : f.final = true
    · simp [hf]
    · simp [hf, hagain hf (by rw [hmode]; rfl)]
  | triggered line edge delay period n restart rewait =>
    by_cases hf : f.final = true
    · simp [hf]
    · simp [hf, hagain hf (by rw [hmode]; rfl)]
  | window =>
    rw [hrun]
    cases start <;> rfl

/-- Settles O33, by the settlement of the mode: an insertion at the next deadline or a state. -/
theorem settlingSettlesByMode : Obligations.SettlingSettlesByMode := by
  intro s f r hlive hf hr
  refine ⟨fun stage => ?_, fun hbusy => ?_, fun next deadline start hquiet hrun _ hnext hfinal => ?_⟩
  · rw [exec_settling, execSettling, State.live_of_not_rstn hlive]
    exact congrArg Host.Outcome.next (carryFiring_eq_carried hf hr stage)
  · obtain ⟨i, hi⟩ := Option.ne_none_iff_exists'.1 hbusy
    rw [exec_settling, execSettling, State.live_of_not_rstn hlive]
    simp only [hi]
  intro done counted idle leave again
  obtain ⟨ports, outputs, copiesDue, actionDue, hacted⟩ := acted_frame hf r
  have hexec : exec (.settling none) s = .next done.settle := by
    rw [exec_settling, execSettling, State.live_of_not_rstn hlive]
    simp only [hquiet, carryFiring_eq_carried hf hr, carried, done]
  have hheld : done.held f.slot = some r := by simp only [done, hacted]; exact hr
  have hmonitor : done.monitor = s.monitor := by simp only [done, hacted]
  have hinput (l : LineNo) : done.input l = s.input l := by simp only [done, hacted]; rfl
  have hfiring : done.firing = some { f with copiesDue, actionDue } := by simp only [done, hacted]
  have hleave (run : Run) (h : done.settlement { f with copiesDue, actionDue } counted = .leave run) :
      done.settle = leave run := by
    rw [settle_of_leave hfiring hheld h, hmonitor]; rfl
  have hagain (h : done.settlement { f with copiesDue, actionDue } counted = .insert next) : done.settle = again := by
    have hquiet' : done.insertion = none := by simp only [done, hacted]; exact hquiet
    rw [settle_of_insert hfiring hheld hquiet' h, hmonitor]; rfl
  rw [hexec]
  refine congrArg Host.Outcome.next ?_
  have hsettled {mode : Mode} (hmode : r.mode = mode) :=
    settlement_eq (s := done) (f := { f with copiesDue, actionDue }) (r := counted) hrun hnext hfinal hmode
  cases hmode : r.mode with
  | oneShot => exact hleave _ (hsettled hmode)
  | periodic period n =>
    dsimp only
    split
    · next hf => exact hleave _ ((hsettled hmode).trans (if_pos hf))
    · next hf => exact hagain ((hsettled hmode).trans (if_neg hf))
  | gated line active period n =>
    have h := hsettled hmode
    simp only [hinput] at h
    dsimp only
    split
    · next hf => exact hleave _ (h.trans (if_pos hf))
    · next hf =>
      split
      · next hopen => exact hagain (h.trans ((if_neg hf).trans (if_pos hopen)))
      · next hclosed => exact hleave _ (h.trans ((if_neg hf).trans (if_neg hclosed)))
  | triggered line edge delay period n restart rewait =>
    dsimp only
    split
    · next hf => exact hleave _ ((hsettled hmode).trans (if_pos hf))
    · next hf => exact hagain ((hsettled hmode).trans (if_neg hf))
  | window => exact hleave _ (hsettled hmode)

end Sys2Proof.Claims
end

section
/-! SUPPORT. Completing insertions, the arbiter, and second stages (sections 2.4, 8.2 and 8.3): O34, O35 and O36. -/

namespace Sys2Proof.Claims

open Sys2Proof.Machine

/-! ## The completion of an insertion -/

/-- A completion of any frame in EXECUTING, its code defined or not (R144, R147). -/
theorem complete_eq_answered {s : State} {p : PortNo} {f : Frame} (hf : (s.port p).request = .executing f) (status : Status)
    (results : List Byte) : s.complete p status results = answered s p f.code status results := by
  cases hm : (s.port p).resetMark with
  | true => rw [State.complete_of_resetMark hm]; simp [answered, hm, State.setPort]
  | false => rw [State.complete_of_executing hf hm]; simp [answered, hm, State.setPort]

/-- An application that is over in the words of the statements (R111, R113). -/
theorem leaveIfApplied_applicationDone {s : State} {n : SlotNo} {rest : List SlotNo} {held : Bool}
    (hm : s.monitor = .applying (n :: rest) held) (early : Nat) :
    s.applicationDone.leaveIfApplied early = finished early rest s := by
  rw [State.applicationDone, hm]
  cases rest with
  | nil =>
    have hleft : State.recordLeaves early { s with monitor := .applying [] false } = s.recordLeaves early := rfl
    exact hleft
  | cons next more => rfl

theorem exec_insertCompletion (s : State) (early : Nat) : exec (.insertCompletion early) s = execInsertCompletion s early := rfl

/-- Settles O34: the place of the entry (`placeEntry_eq`), and the end of the operation by its client. -/
theorem insertCompletionPlacesEntry : Obligations.InsertCompletionPlacesEntry := by
  intro s early i r hlive hi hr
  refine ⟨s.queue.takeWhile fun e => decide (e.deadline.toNat ≤ i.deadline.toNat),
    s.queue.dropWhile fun e => decide (e.deadline.toNat ≤ i.deadline.toNat), List.takeWhile_append_dropWhile.symm,
    fun e he => by simpa using List.mem_takeWhile_imp he, fun e he => ?_, ?_⟩
  · have := List.head?_dropWhile_not (fun e : Entry => decide (e.deadline.toNat ≤ i.deadline.toNat)) s.queue
    rw [he] at this
    simpa using this
  intro placed
  have hplaced : s.place i = placed := by rw [State.place_of_held hr, placeEntry_eq]
  refine ⟨fun p results frame hc hf => ?_, fun n rest held hc hm => ?_, fun hc => ?_⟩ <;>
    rw [exec_insertCompletion, execInsertCompletion, State.live_of_not_rstn hlive] <;>
    simp only [hi, hc, State.finishInsert, hplaced] <;>
    refine congrArg Host.Outcome.next ?_
  · exact complete_eq_answered (s := placed) hf _ _
  · exact leaveIfApplied_applicationDone (s := placed) hm early
  · rfl

/-! ## The arbiter -/

theorem exec_portArbiterGrant (s : State) (pause : Option Nat) : exec (.portArbiterGrant pause) s = execPortArbiterGrant pause s := rfl

theorem candidate_iff (x : HostPort) : x.candidate = true ↔ x.teardownPending = true ∨ ∃ f, x.request = .queued f := by
  unfold HostPort.candidate
  cases x.request <;> simp

/-- The arbiter's search is in the order of the pointer (R146). -/
theorem nextCandidate_of_first {s : State} {k : PortNo} (hlow : ∀ j, j < k → (s.port (s.pointer + j)).candidate = false)
    (hk : (s.port (s.pointer + k)).candidate = true) : s.nextCandidate = some (s.pointer + k) := by
  unfold State.nextCandidate
  match k with
  | 0 => rw [Fin.add_zero] at hk ⊢; simp [hk]
  | 1 =>
    have h0 := hlow 0 (by decide)
    rw [Fin.add_zero] at h0
    simp [h0, hk]
  | 2 =>
    have h0 := hlow 0 (by decide)
    rw [Fin.add_zero] at h0
    simp [h0, hlow 1 (by decide), hk]
  | 3 =>
    have h0 := hlow 0 (by decide)
    rw [Fin.add_zero] at h0
    simp [h0, hlow 1 (by decide), hlow 2 (by decide), hk]

theorem nextCandidate_eq_none {s : State} (h : ∀ q, (s.port q).candidate = false) : s.nextCandidate = none := by
  simp [State.nextCandidate, h]

/-- A code that no request has (R149). -/
theorem ofCode_isNone_iff (code : Byte) : (Req.ofCode code).isNone = true ↔ ¬∃ c ∈ Req.all, c.code = code := by
  simp [Req.ofCode, List.find?_eq_none]

/-- Settles O35: the search in pointer order (`nextCandidate_of_first`), and then the code's own check. -/
theorem arbiterGrantsInTurn : Obligations.ArbiterGrantsInTurn := by
  intro s pause hlive candidate
  refine ⟨fun k f hfree hlow hf => ?_, fun hno => ?_⟩
  · intro p granted
    have hnext : s.nextCandidate = some p := by
      refine nextCandidate_of_first (fun j hj => ?_) ((candidate_iff _).2 (.inr ⟨f, hf⟩))
      exact Bool.eq_false_iff.2 (mt (candidate_iff _).1 (hlow j hj))
    have hexecuting : (granted.port p).request = .executing f := by
      simp [granted, State.port]
    rw [exec_portArbiterGrant, execPortArbiterGrant, State.live_of_not_rstn hlive]
    refine congrArg Host.Outcome.next ?_
    simp only [hfree, hnext]
    have hgrant : (if (Req.ofCode f.code).isNone = true then granted.refuse p .unknown else granted) =
        if ∃ c ∈ Req.all, c.code = f.code then granted else answered granted p f.code .unknown [] := by
      by_cases hc : ∃ c ∈ Req.all, c.code = f.code
      · rw [if_neg fun h => (ofCode_isNone_iff _).1 h hc, if_pos hc]
      · rw [if_pos ((ofCode_isNone_iff _).2 hc), if_neg hc]
        exact complete_eq_answered hexecuting _ _
    split
    · next f' hf' => cases RequestState.queued.inj (hf'.symm.trans hf); exact hgrant
    · next hno => exact absurd hf (hno f)
  · rw [exec_portArbiterGrant, execPortArbiterGrant, State.live_of_not_rstn hlive]
    refine congrArg Host.Outcome.next ?_
    rcases hno with hbusy | hnone
    · split
      · next h _ => exact absurd h hbusy
      · rfl
    · have hnext : s.nextCandidate = none :=
        nextCandidate_eq_none fun q => Bool.eq_false_iff.2 (mt (candidate_iff _).1 (hnone q))
      split
      · next h => exact absurd (h.symm.trans hnext) (Option.some_ne_none _)
      · rfl

/-! ## Second stages -/

theorem release_with_engine (s : State) (engine : Engine) (n : SlotNo) (r : Reservation) :
    State.release n r { s with engine } = { s.release n r with engine } := by
  have harmed : State.removeArmed n r { s with engine } = { s.removeArmed n r with engine } := by
    unfold State.removeArmed; split <;> rfl
  rw [release_eq, release_eq, harmed]; rfl

theorem rebind_with_engine (s : State) (engine : Engine) (n : SlotNo) (old new : Mode) :
    State.rebind n old new { s with engine } = { s.rebind n old new with engine } := by
  rw [rebind_eq, rebind_eq]; split <;> rfl

/-- A slot operation that the engine takes does not depend on what the engine had in hand (R6). -/
theorem takeOp_with_engine (s : State) (engine : Engine) (p : PortNo) (op : SlotOp) :
    State.takeOp p op { s with engine } = s.takeOp p op := by
  cases op with
  | reserve => rfl
  | watch n | unwatch n | query n => rfl
  | release n =>
    simp only [State.takeOp, State.releaseOp, release_with_engine]
    rfl
  | setShare n share =>
    have hheld : State.held { s with engine } n = s.held n := rfl
    simp only [State.takeOp, State.setShareOp, deliverWatchers_eq_copies, hheld]
    cases s.held n with
    | none => rfl
    | some r =>
      dsimp only
      split
      · rfl
      · cases share <;> rfl
  | configure n mode tag action =>
    simp only [State.takeOp, State.configureOp, rebind_with_engine]
    rfl
  | arm n form => rfl
  | disarm n =>
    simp only [State.takeOp, State.disarmOp, deliverWatchers_eq_copies]
    rfl

theorem offer_with_engine (s : State) (engine : Engine) (p : PortNo) (op : SlotOp) :
    State.offer p op.slot op (State.takeOp p op) { s with engine } = s.offer p op.slot op (State.takeOp p op) := by
  have hwaits : State.waitsFor { s with engine } op.slot = s.waitsFor op.slot := rfl
  simp only [State.offer, takeOp_with_engine, hwaits]

theorem exec_secondStageOperation (s : State) (client : Client) (pause : Option Nat) (early : Nat) :
    exec (.secondStageOperation client pause early) s = execSecondStageOperation client pause s early := rfl

theorem exec_edgeApplication (s : State) (early : Nat) : exec (.edgeApplication early) s = execEdgeApplication s early := rfl

/-- The engine's second stage offers the waiting operation again (R148). -/
theorem exec_secondStage_of_waiting {s : State} {p : PortNo} {op : SlotOp} {on : WaitFor} (hlive : s.rstn = false)
    (he : s.engine = .waiting p op on) (pause : Option Nat) (early : Nat) :
    exec (.secondStageOperation .engine pause early) s = .next (s.offer p op.slot op (State.takeOp p op)) := by
  rw [exec_secondStageOperation, execSecondStageOperation, State.live_of_not_rstn hlive]
  simp only [State.resumeEngine, he]

theorem exec_edgeApplication_live {s : State} (hlive : s.rstn = false) (early : Nat) :
    exec (.edgeApplication early) s = .next (s.goOn early) := by
  rw [exec_edgeApplication, execEdgeApplication, State.live_of_not_rstn hlive]

theorem offerApplication_of_turn {s : State} {rec : EdgeRecord} {n : SlotNo} {rest : List SlotNo} {held : Bool}
    (hm : s.monitor = .applying (n :: rest) held) (hfifo : s.fifo.head? = some rec) :
    s.offerApplication = match s.waitsFor (some n) with
      | some .insertion => s
      | some (.firing _) => { s with monitor := .holding (n :: rest) }
      | none => s.applyRecord rec n := by
  obtain ⟨more, hfifo⟩ := List.head?_eq_some_iff.1 hfifo
  unfold State.offerApplication
  simp only [hm, hfifo] <;> rfl

/-- Settles O36: the engine's second stage makes the offer of the request's row, which does not read what the engine has in hand. -/
theorem secondStageActsAsArrivingNow : Obligations.SecondStageActsAsArrivingNow := by
  intro s pause early
  refine ⟨fun p c params n r op on hc he h hop hn hr hright => ?_, fun p on he h hq => ?_, fun rest hm => ?_,
    fun rec n rest held r hlive hm hfifo hr => ⟨fun hfiring => ?_, fun hfiring hbusy => ?_⟩⟩
  · refine ⟨_, exec_secondStage_of_waiting (s := s) h.live he pause early, ?_⟩
    rw [exec_slotRequest hc h, slotRequest_named hop hn (by exact hr), hright, Option.elim, ← offered_slot hop, offer_with_engine]
  · refine ⟨_, exec_secondStage_of_waiting (s := s) h.live he pause early, ?_⟩
    rw [exec_reserve_of_granted h]
    exact congrArg Host.Outcome.next ((if_pos hq).trans (offer_with_engine s (.granted p) p .reserve))
  · refine ⟨if s.rstn then s else s.goOn early, ?_, ?_⟩
    · rw [exec_secondStageOperation, execSecondStageOperation]
      cases hrstn : s.rstn with
      | true => rw [State.live_of_rstn hrstn]; rfl
      | false => rw [State.live_of_not_rstn hrstn]; simp only [hm]; rfl
    · cases hrstn : s.rstn with
      | true => rw [exec_edgeApplication, execEdgeApplication, State.live_of_rstn hrstn]; rfl
      | false => exact exec_edgeApplication_live hrstn early
  · have hw : s.waitsFor (some n) = some (.firing n) := State.waitsFor_of_isFiring ((isFiring_of_held hr).trans hfiring)
    rw [exec_edgeApplication_live hlive, State.goOn, offerApplication_of_turn hm hfifo, hw]
    rfl
  · have hw : s.waitsFor (some n) = some .insertion := by
      simp [State.waitsFor, Option.filter, (isFiring_of_held hr).trans hfiring, Option.isSome_iff_ne_none.2 hbusy]
    rw [exec_edgeApplication_live hlive, State.goOn, offerApplication_of_turn hm hfifo, hw, State.leaveIfApplied]
    simp only [hm]

end Sys2Proof.Claims
end

section
/-! SUPPORT. The application of a record to a slot of each line mode (sections 3.5 and 6.4): O29, O30 and O31. -/

namespace Sys2Proof.Claims

open Sys2Proof.Machine

/-! ## One application -/

/-- Only an ARMED slot has an entry to lose (R26). -/
theorem dequeued_of_not_armed {s : State} {n : SlotNo} {r : Reservation} (h : entryOnlyArmed s n r)
    (hd : r.run.armedDeadline = none) : dequeued s n = s := by
  have hfilter : s.queue.filter (fun e => e.slot ≠ n) = s.queue :=
    List.filter_eq_self.2 fun e he => by simpa using h hd e he
  rw [dequeued, hfilter]

section
variable {s t : State} {rec : EdgeRecord} {n : SlotNo} {rest : List SlotNo} {r : Reservation} {early : Nat}

/-- An application whose turn it is comes to the mode's own work, after which the record may leave (R111, R113). -/
theorem Applying.exec_eq (h : Applying s rec n rest r) (early : Nat) :
    exec (.edgeApplication early) s = .next ((s.applyRecord rec n).leaveIfApplied early) := by
  obtain ⟨held, hm⟩ := h.turn
  have hw : s.waitsFor (some n) = none :=
    (s.waitsFor_eq_none n).2 ⟨(isFiring_of_held h.ready.held).trans h.ready.settled, h.ready.quiet⟩
  rw [exec_edgeApplication_live h.live, State.goOn, offerApplication_of_turn hm h.inHand, hw]

/-- A slot operation without an insertion is over at once. -/
theorem Applying.over (h : Applying s rec n rest r) (ht : t.monitor = s.monitor) :
    t.applicationDone.leaveIfApplied early = finished early rest t := by
  obtain ⟨held, hm⟩ := h.turn
  exact leaveIfApplied_applicationDone (ht.trans hm) early

/-- A slot operation with an insertion is over when the insertion is placed, at once or later (R29). -/
theorem Applying.inserted (h : Applying s rec n rest r) (ht : t.monitor = s.monitor) (hi : t.insertion = s.insertion)
    {i : Insertion} (hc : i.client = .lineMonitor) {r' : Reservation} (hr : t.held i.slot = some r') :
    (t.insert i).leaveIfApplied early = entered t i r' (finished early rest) := by
  obtain ⟨held, hm⟩ := h.turn
  have hplaced : t.finishInsert i = (t.place i).applicationDone := by simp only [State.finishInsert, hc]
  rw [insert_eq_entered hr (hi.trans h.ready.quiet) hplaced]
  unfold entered
  split
  · exact leaveIfApplied_applicationDone (n := n) (held := held) (by exact ht.trans hm) early
  · rw [State.leaveIfApplied]
    simp only [ht, hm]

end

/-! ## GATED -/

theorem level_eq (d : Direction) : d.level = if d = .rise then .high else .low := by cases d <;> rfl

/-- Settles O29, by the slot's state and the gate. -/
theorem gatedSlotFollowsGate : Obligations.GatedSlotFollowsGate := by
  intro s early rec n rest r line active period repeatLimit h hmode
  have hwork : s.applyRecord rec n = s.applyGated rec n r active := by
    simp only [State.applyRecord, h.ready.held, hmode]
  rw [h.exec_eq, hwork, State.applyGated, level_eq]
  refine congrArg Host.Outcome.next ?_
  cases r.run with
  | paused remaining =>
    cases decide ((if rec.direction = .rise then Level.high else Level.low) = active) with
    | true => exact h.inserted rfl rfl rfl h.ready.held
    | false => exact h.over rfl
  | armed deadline start =>
    cases decide ((if rec.direction = .rise then Level.high else Level.low) = active) with
    | true => exact h.over rfl
    | false => exact h.over rfl
  | idle | waiting | lapsed | firing => exact h.over rfl

/-! ## TRIGGERED -/

/-- Settles O30, by the record's kind and edge and the slot's state. -/
theorem triggeredSlotStarts : Obligations.TriggeredSlotStarts := by
  intro s early rec n rest r line edge delay period repeatLimit restart rewait h hmode started isMatch
  rw [h.exec_eq]
  refine congrArg Host.Outcome.next ?_
  cases hkind : rec.kind with
  | level =>
    have hwork : s.applyRecord rec n = s.applicationDone := by
      simp only [State.applyRecord, h.ready.held, hmode, hkind]
    rw [hwork, if_neg (by simp)]
    exact h.over rfl
  | edge =>
    have hwork : s.applyRecord rec n = s.applyTriggered rec n r edge delay restart := by
      simp only [State.applyRecord, h.ready.held, hmode, hkind]
    have hmatch : edge.matchesDir rec.direction = isMatch := by
      simp only [isMatch]
      cases edge <;> cases rec.direction <;> rfl
    have hstarted : (s.startTriggered rec n r delay).leaveIfApplied early = started :=
      h.inserted (t := s.remove n { r with fireCount := 0 } .waiting) (i := edgeInsertion n rec.timestamp delay none) rfl rfl rfl
        (r' := { r with fireCount := 0, run := .waiting }) (State.held_setHeld_self ..)
    rw [hwork]
    unfold State.applyTriggered
    rw [hmatch]
    by_cases hm : isMatch = true
    · rw [if_pos hm, if_pos ⟨rfl, hm⟩]
      cases r.run with
      | waiting => exact hstarted
      | armed deadline start =>
        cases restart with
        | true => exact hstarted
        | false => exact h.over rfl
      | idle | paused | lapsed | firing => exact h.over rfl
    · rw [if_neg hm, if_neg fun h => hm h.2]
      exact h.over rfl

/-! ## WINDOW -/

section
variable {s t : State} {rec : EdgeRecord} {n : SlotNo} {rest : List SlotNo} {r : Reservation} {early : Nat}

/-- The notice of a closing window in the words of the statements (R57). -/
theorem reportWindow_eq (hw : r.watchers[r.owner] = false) (ht : (t.slot n).generation = (s.slot n).generation)
    (kind : NoticeKind) (wanted : Bool) (start : TimeCount) (rewait : Bool) :
    t.reportWindow rec n r kind wanted start rewait =
      if wanted then
        copies t (hears r) (copyFor r { plainNotice s kind n r rec.timestamp with
          ref := some start,
          value := some (BitVec.ofNat 32 (min (rec.timestamp.toNat - start.toNat) (2 ^ 32 - 1))),
          count := some r.fireCount, final := !rewait })
      else t := by
  unfold State.reportWindow
  rw [ht]
  split
  · exact deliverAll_eq_copies t _ hw rfl
  · rfl

theorem reportWindow_frame (kind : NoticeKind) (wanted : Bool) (start : TimeCount) (rewait : Bool) :
    ∃ ports, t.reportWindow rec n r kind wanted start rewait = { t with ports } := by
  unfold State.reportWindow
  split
  · exact State.deliverAll_frame _ r t
  · exact ⟨t.ports, rfl⟩

/-- A window opens in a state that differs from the one at the turn in the ports, the queue and the slot's own state. -/
theorem Applying.opened (h : Applying s rec n rest r) (ht : t.monitor = s.monitor) (hi : t.insertion = s.insertion) {run : Run}
    (hr : t.held n = some { r with run }) (limit : Word) :
    (t.openWindow rec n limit).leaveIfApplied early =
      entered t (edgeEntry rec n limit (some rec.timestamp)) r (finished early rest) :=
  h.inserted (i := edgeInsertion n rec.timestamp limit (some rec.timestamp)) (r' := { r with run }) ht hi rfl hr

/-- A window closes, and another opens at once or the turn is over (R55, R56). -/
theorem Applying.closed (h : Applying s rec n rest r) {rewait reopen : Bool}
    (hend : s.endWindow n r rewait (reopen && rewait) = t) (ht : t.monitor = s.monitor) (hi : t.insertion = s.insertion) {run : Run}
    (hr : t.held n = some { r with run }) (kind : NoticeKind) (wanted : Bool) (start : TimeCount) (limit : Word) :
    (s.closeWindow rec n r kind wanted start rewait reopen limit).leaveIfApplied early =
      let u := t.reportWindow rec n r kind wanted start rewait
      if (reopen && rewait) = true then entered u (edgeEntry rec n limit (some rec.timestamp)) r (finished early rest)
      else finished early rest u := by
  obtain ⟨ports, hu⟩ := reportWindow_frame (t := t) (rec := rec) (n := n) (r := r) kind wanted start rewait
  unfold State.closeWindow
  dsimp only
  rw [hend, hu]
  split
  · exact h.opened (t := { t with ports }) ht hi hr limit
  · exact h.over (t := { t with ports }) ht

end

/-- Settles O31, by the record's kind and direction and the slot's state. -/
theorem windowSlotMeasures : Obligations.WindowSlotMeasures := by
  intro s early rec n rest r line startEdge endEdge limit report rewait h hmode hw hsuits open_ notice told after
  rw [h.exec_eq]
  refine congrArg Host.Outcome.next ?_
  have hheld : s.held n = some { r with run := r.run } := h.ready.held
  by_cases hkind : rec.kind = .level
  · have hwork : s.applyRecord rec n = s.applicationDone := by
      simp only [State.applyRecord, h.ready.held, hmode, hkind]
    rw [hwork, if_pos hkind]
    exact h.over rfl
  have hwork : s.applyRecord rec n = s.applyWindow rec n r startEdge endEdge limit report rewait := by
    have hedge : rec.kind = .edge := by cases hk : rec.kind <;> simp_all
    simp only [State.applyRecord, h.ready.held, hmode, hedge]
  rw [hwork, if_neg hkind]
  unfold State.applyWindow
  have hover : s.applicationDone.leaveIfApplied early = finished early rest s := h.over rfl
  cases hrun : r.run with
  | waiting =>
    dsimp only
    by_cases hstart : rec.direction = startEdge
    · rw [if_pos ⟨hstart, rfl⟩, if_pos hstart]
      exact h.opened rfl rfl hheld limit
    · rw [if_neg fun hs => hstart hs.1, if_neg hstart, ite_self]
      exact hover
  | armed deadline windowStart =>
    obtain ⟨start, rfl⟩ : ∃ start, windowStart = some start := by
      rw [hrun, hmode] at hsuits
      exact Option.isSome_iff_exists.1 (beq_iff_eq.1 hsuits)
    dsimp only
    rw [if_neg fun hs => Run.noConfusion hs.2]
    by_cases hdir : rec.direction = endEdge
    · rw [if_pos hdir, if_pos hdir]
      have hend : s.endWindow n r rewait (decide (startEdge = endEdge) && rewait) = (dequeued s n).setHeld n { r with run := after } := by
        simp only [State.endWindow, hrun]; rfl
      refine (h.closed hend rfl rfl (State.held_setHeld_self ..) .windowShort report.short start limit).trans ?_
      have hgeneration : (((dequeued s n).setHeld n { r with run := after }).slot n).generation = (s.slot n).generation := by
        rw [State.generation_setHeld]; rfl
      dsimp only
      rw [reportWindow_eq hw hgeneration]
      simp only [Bool.and_eq_true, decide_eq_true_eq]
      rfl
    · rw [if_neg hdir, if_neg hdir]
      exact hover
  | lapsed start =>
    dsimp only
    rw [if_neg fun hs => Run.noConfusion hs.2]
    by_cases hdir : rec.direction = endEdge
    · rw [if_pos hdir, if_pos hdir]
      by_cases hagain : startEdge = endEdge ∧ rewait = true
      · have hend : s.endWindow n r rewait (decide (startEdge = endEdge) && rewait) = s := by
          simp only [State.endWindow, hrun, hagain.1, hagain.2]; rfl
        refine (h.closed hend rfl rfl hheld .windowEnd report.ends start limit).trans ?_
        dsimp only
        rw [reportWindow_eq (s := s) hw rfl, if_pos (by simp [hagain]), if_pos hagain]
      · have hand : (decide (startEdge = endEdge) && rewait) = false := by simpa using hagain
        have hend : s.endWindow n r rewait (decide (startEdge = endEdge) && rewait) = s.setHeld n { r with run := after } := by
          simp only [hand, State.endWindow, hrun, State.remove]
          exact congrArg (State.setHeld · n { r with run := after }) (dequeued_of_not_armed h.entry (by rw [hrun]; rfl))
        refine (h.closed hend rfl rfl (State.held_setHeld_self ..) .windowEnd report.ends start limit).trans ?_
        dsimp only
        rw [reportWindow_eq (s := s) hw (State.generation_setHeld ..), if_neg (by simp [hand]), if_neg hagain]
    · rw [if_neg hdir, if_neg hdir]
      exact hover
  | idle | paused | firing =>
    dsimp only
    rw [if_neg fun hs => Run.noConfusion hs.2, ite_self]
    exact hover

end Sys2Proof.Claims
end

section
/-! SUPPORT. Teardowns operation by operation (section 9.3): how many operations are left, and what a pause between two of them
changes: O8. -/

namespace Sys2Proof.Claims

open Sys2Proof.Machine

/-! ## The next operation -/

/-- The lowest-numbered slot with a property. -/
theorem find_allSlots_eq_some_iff {f : SlotNo → Bool} {n : SlotNo} :
    allSlots.find? f = some n ↔ f n = true ∧ ∀ m, m < n → f m = false := by
  rw [allSlots, ← Fin.find?_eq_find?_finRange, Fin.find?_eq_some_iff]

/-- The slot that a teardown comes to is the one that the statements name (R164). -/
theorem teardownSlot_eq_some_iff {s : State} {p : PortNo} {n : SlotNo} : s.teardownSlot p = some n ↔ nextSlot s p n := by
  unfold State.teardownSlot nextSlot
  cases hw : allSlots.find? (s.watches p) with
  | some m =>
    obtain ⟨hm, hlow⟩ := find_allSlots_eq_some_iff.1 hw
    refine ⟨fun h => by cases h; exact .inl ⟨hm, hlow⟩, fun h => ?_⟩
    rcases h with h | ⟨hnone, -⟩
    · exact hw.symm.trans (find_allSlots_eq_some_iff.2 h)
    · rw [hnone m] at hm; cases hm
  | none =>
    have hnone (m : SlotNo) : s.watches p m = false := by simpa using List.find?_eq_none.1 hw m (List.mem_finRange m)
    refine ⟨fun h => .inr ⟨hnone, find_allSlots_eq_some_iff.1 h⟩, fun h => ?_⟩
    rcases h with ⟨h, -⟩ | ⟨-, h⟩
    · rw [hnone n] at h; cases h
    · exact find_allSlots_eq_some_iff.2 h

/-- The slot operation that a teardown comes to: a watcher removal, or a release of a slot of a port that watches none (R164). -/
theorem teardownOp_cases {s : State} {p : PortNo} {n : SlotNo} (h : s.teardownSlot p = some n) :
    ∃ r, s.held n = some r ∧
      ((r.watchers[p] = true ∧ s.teardownOp p n = (s.setHeld n { r with watchers := r.watchers.set p false }, 0)) ∨
       (r.watchers[p] = false ∧ r.owner = p ∧ (∀ m, s.watches p m = false) ∧ (∀ m, m < n → s.owns p m = false) ∧
          s.teardownOp p n = (s.release n r, 1))) := by
  rcases teardownSlot_eq_some_iff.1 h with ⟨hw, -⟩ | ⟨hnone, ho, hlow⟩
  · rw [watches_eq] at hw
    cases hr : s.held n with
    | none => rw [hr] at hw; cases hw
    | some r =>
      rw [hr] at hw
      have hw : r.watchers[p] = true := hw
      exact ⟨r, rfl, .inl ⟨hw, by simp only [State.teardownOp, hr, if_pos hw]⟩⟩
  · have hw := hnone n
    rw [watches_eq] at hw
    rw [owns_eq] at ho
    cases hr : s.held n with
    | none => rw [hr] at ho; cases ho
    | some r =>
      rw [hr] at ho hw
      have hw : r.watchers[p] = false := hw
      refine ⟨r, rfl, .inr ⟨hw, by simpa using ho, hnone, hlow, ?_⟩⟩
      simp only [State.teardownOp, hr]
      rw [if_neg (by simp [hw])]

theorem puts_release (s : State) (n : SlotNo) (r : Reservation) : Puts s n none (s.release n r) := fun m => by
  rw [State.held, State.slot_release]; split <;> rfl

/-! ## What is left of a teardown -/

/-- The number of slots that a port watches. -/
def watchedCount (s : State) (p : PortNo) : Nat := (allSlots.filter fun n => s.watches p n).length

theorem watchedCount_puts {s t : State} {n : SlotNo} {x : Option Reservation} (hp : Puts s n x t) (q : PortNo) :
    watchedCount t q + (s.watches q n).toNat = watchedCount s q + (t.watches q n).toNat :=
  length_filter_update n fun m hm => by rw [watches_eq, watches_eq, hp.of_ne hm]

/-- The operations that are left of port `p`'s teardown, the last one included (R164). -/
def teardownLeft (s : State) (p : PortNo) : Nat :=
  watchedCount s p + s.ownedCount p + (s.claimedLines p).length + (if s.authority = some p then 1 else 0) + 1

theorem teardownLeft_le (s : State) (p : PortNo) : teardownLeft s p ≤ Config.teardownOps := by
  have hw : watchedCount s p ≤ 64 := List.length_filter_le _ allSlots
  have ho : s.ownedCount p ≤ 64 := List.length_filter_le _ allSlots
  have hl : (s.claimedLines p).length ≤ 8 := List.length_filter_le _ allLines
  have hmax : Config.teardownOps = 138 := rfl
  unfold teardownLeft
  split <;> omega

theorem claim_of_claimedLines {s : State} {p : PortNo} {l : LineNo} (h : (s.claimedLines p).head? = some l) :
    (s.output l).claim = some p := by
  have := List.mem_of_mem_head? h
  simpa [State.claimedLines, allLines] using this

/-- A line that is freed is no longer among the port's. -/
theorem claimedLines_freed {s : State} {p : PortNo} {l : LineNo} (h : (s.output l).claim = some p) :
    ((s.setOutput l (s.output l).free).claimedLines p).length + 1 = (s.claimedLines p).length := by
  have hcount := sum_finRange_update (f := fun m => ((s.output m).claim == some p).toNat)
    (g := fun m => (((s.setOutput l (s.output l).free).output m).claim == some p).toNat) l
    fun m hm => by rw [State.output_setOutput, if_neg hm]
  rw [State.output_setOutput, if_pos rfl, h] at hcount
  simpa [State.claimedLines, length_filter_eq_sum, OutputLine.free, allLines] using hcount

/-- Each slot operation of a teardown leaves one operation less. -/
theorem teardownLeft_op {s : State} {p : PortNo} {n : SlotNo} (h : s.teardownSlot p = some n) :
    teardownLeft (s.teardownOp p n).1 p + 1 = teardownLeft s p := by
  obtain ⟨r, hr, ⟨hw, hop⟩ | ⟨hw, ho, -, -, hop⟩⟩ := teardownOp_cases h
  · have hp := puts_setHeld s n { r with watchers := r.watchers.set p false }
    have hwatched := watchedCount_puts hp p
    have howned := ownedCount_puts hp p
    simp only [watches_eq, owns_eq, hp.at, hr, Option.map_some, Option.any_some, hw] at hwatched howned
    have hframe : (s.setHeld n { r with watchers := r.watchers.set p false }).claimedLines p = s.claimedLines p ∧
        (s.setHeld n { r with watchers := r.watchers.set p false }).authority = s.authority := ⟨rfl, rfl⟩
    obtain ⟨hlines, hauth⟩ := hframe
    rw [hop, teardownLeft, teardownLeft]
    dsimp only
    rw [hlines, hauth]
    simp at hwatched howned
    omega
  · have hp := puts_release s n r
    have hwatched := watchedCount_puts hp p
    have howned := ownedCount_puts hp p
    simp only [watches_eq, owns_eq, hp.at, hr, Option.map_some, Option.any_some, hw, ho] at hwatched howned
    have hframe : (s.release n r).claimedLines p = s.claimedLines p ∧ (s.release n r).authority = s.authority := by
      obtain ⟨_, _, _, _, _, _, hf⟩ := s.release_frame n r
      rw [hf]; exact ⟨rfl, rfl⟩
    obtain ⟨hlines, hauth⟩ := hframe
    rw [hop, teardownLeft, teardownLeft]
    dsimp only
    rw [hlines, hauth]
    simp at hwatched howned
    omega

/-- Each operation of a teardown but the last leaves one less (R164). -/
theorem teardownLeft_step {s : State} {p : PortNo} {close : Bool} {released lines : Nat} {on : Option WaitFor}
    (he : s.engine = .teardown p close released lines on)
    {p' : PortNo} {close' : Bool} {released' lines' : Nat} (hgoes : s.teardownStep.engine = .teardown p' close' released' lines' none) :
    p' = p ∧ teardownLeft s.teardownStep p + 1 = teardownLeft s p := by
  obtain ⟨hauth, hstep⟩ | ⟨hauth, ⟨n, hn, ⟨w, -, hstep⟩ | ⟨-, hstep⟩⟩ | ⟨-, ⟨l, hl, hstep⟩ | ⟨-, hstep⟩⟩⟩ :=
    State.teardownStep_cases he
  · rw [hstep] at hgoes ⊢
    cases hgoes
    refine ⟨rfl, ?_⟩
    simp only [teardownLeft, hauth, if_true, reduceCtorEq, if_false]
    rfl
  · rw [hstep] at hgoes; cases hgoes
  · rw [hstep] at hgoes ⊢
    cases hgoes
    refine ⟨rfl, ?_⟩
    exact teardownLeft_op hn
  · rw [hstep] at hgoes ⊢
    cases hgoes
    have := claimedLines_freed (claim_of_claimedLines hl)
    have hleft : teardownLeft (s.setOutput l (s.output l).free) p + 1 = teardownLeft s p := by
      have hslots : watchedCount (s.setOutput l (s.output l).free) p = watchedCount s p ∧
          (s.setOutput l (s.output l).free).ownedCount p = s.ownedCount p ∧
          (s.setOutput l (s.output l).free).authority = s.authority := ⟨rfl, rfl, rfl⟩
      obtain ⟨hwatched, howned, hauth⟩ := hslots
      rw [teardownLeft, teardownLeft, hwatched, howned, hauth]; omega
    exact ⟨rfl, hleft⟩
  · rw [hstep, endTeardown_eq] at hgoes; cases hgoes

/-! ## Runs -/

theorem runTeardown_of_goes {s : State} {p : PortNo} {close : Bool} {released lines : Nat}
    (h : s.teardownStep.engine = .teardown p close released lines none) (ops : Nat) :
    State.runTeardown (ops + 1) s = State.runTeardown ops s.teardownStep := by
  rw [State.runTeardown, h]

theorem runTeardown_of_stops {s : State}
    (h : ∀ p close released lines, s.teardownStep.engine ≠ .teardown p close released lines none) (ops : Nat) :
    State.runTeardown (ops + 1) s = s.teardownStep := by
  obtain ⟨⟨p, close, released, lines, he⟩, -⟩ | ⟨-, hrun⟩ := State.runTeardown_succ ops s
  · exact absurd he (h p close released lines)
  · exact hrun

/-- A teardown either goes on or has stopped. -/
theorem goes_or_stops (s : State) :
    (∃ p close released lines, s.teardownStep.engine = .teardown p close released lines none) ∨
    ∀ p close released lines, s.teardownStep.engine ≠ .teardown p close released lines none := by
  obtain ⟨h, -⟩ | ⟨h, -⟩ := State.runTeardown_succ 0 s
  · exact .inl h
  · exact .inr h

/-- A run of `k` operations has a rest to run, or has stopped (R148, R164). -/
theorem runTeardown_add (k : Nat) {s : State} (h : InTeardown s) :
    (InTeardown (State.runTeardown k s) ∧ ∀ m, State.runTeardown (k + m) s = State.runTeardown m (State.runTeardown k s)) ∨
    ∀ m, State.runTeardown (k + m) s = State.runTeardown k s := by
  induction k generalizing s with
  | zero => exact .inl ⟨h, fun m => by rw [Nat.zero_add]; rfl⟩
  | succ k ih =>
    obtain ⟨p, close, released, lines, he⟩ | hstop := goes_or_stops s
    · have hgo (m : Nat) : State.runTeardown (k + 1 + m) s = State.runTeardown (k + m) s.teardownStep := by
        rw [Nat.add_right_comm, runTeardown_of_goes he]
      simp only [hgo, runTeardown_of_goes he]
      exact ih ⟨p, close, released, lines, none, he⟩
    · refine .inr fun m => ?_
      rw [Nat.add_right_comm, runTeardown_of_stops hstop, runTeardown_of_stops hstop]

/-- A run that may take every operation that is left has stopped. -/
theorem runTeardown_enough (k : Nat) {s : State} {p : PortNo} {close : Bool} {released lines : Nat} {on : Option WaitFor}
    (he : s.engine = .teardown p close released lines on) (hk : teardownLeft s p ≤ k) (m : Nat) :
    State.runTeardown (k + m) s = State.runTeardown k s := by
  induction k generalizing s close released lines on with
  | zero => exact absurd hk (Nat.not_le.2 (Nat.succ_pos _))
  | succ k ih =>
    rw [Nat.add_right_comm]
    obtain ⟨p', close', released', lines', hgo⟩ | hstop := goes_or_stops s
    · obtain ⟨rfl, hleft⟩ := teardownLeft_step he hgo
      rw [runTeardown_of_goes hgo, runTeardown_of_goes hgo]
      exact ih hgo (by omega)
    · rw [runTeardown_of_stops hstop, runTeardown_of_stops hstop]

/-- A teardown that pauses after `k` operations and is then gone on with ends as one that runs on (R165). -/
theorem runTeardown_paused (k : Nat) {s : State} (h : InTeardown s) :
    State.runTeardown Config.teardownOps s = State.runTeardown k s ∨
    (InTeardown (State.runTeardown k s) ∧
      State.runTeardown Config.teardownOps (State.runTeardown k s) = State.runTeardown Config.teardownOps s) := by
  obtain ⟨p, close, released, lines, on, he⟩ := id h
  have henough := runTeardown_enough Config.teardownOps he (teardownLeft_le s p)
  obtain ⟨hin, hadd⟩ | hstopped := runTeardown_add k h
  · exact .inr ⟨hin, by rw [← hadd, Nat.add_comm, henough]⟩
  · refine .inl ?_
    rcases Nat.le_total k Config.teardownOps with hle | hle
    · rw [← Nat.add_sub_cancel' hle, hstopped]
    · rw [← henough (k - Config.teardownOps), Nat.add_sub_cancel' hle]

theorem rstn_teardownStep (s : State) : s.teardownStep.rstn = s.rstn := by
  by_cases h : InTeardown s
  · obtain ⟨p, close, released, lines, on, he⟩ := h
    obtain ⟨-, hstep⟩ | ⟨-, ⟨n, hn, ⟨w, -, hstep⟩ | ⟨-, hstep⟩⟩ | ⟨-, ⟨l, -, hstep⟩ | ⟨-, hstep⟩⟩⟩ :=
      State.teardownStep_cases he
    · rw [hstep]
    · rw [hstep]
    · obtain ⟨r, -, ⟨-, hop⟩ | ⟨-, -, -, -, hop⟩⟩ := teardownOp_cases hn
      · rw [hstep, hop]; rfl
      · obtain ⟨_, _, _, _, _, _, hf⟩ := s.release_frame n r
        rw [hstep, hop, hf]
    · rw [hstep]; rfl
    · rw [hstep, endTeardown_eq]; rfl
  · rw [State.teardownStep_of_none fun p close released lines on he => h ⟨p, close, released, lines, on, he⟩]

theorem rstn_runTeardown (k : Nat) (s : State) : (State.runTeardown k s).rstn = s.rstn := by
  induction k generalizing s with
  | zero => rfl
  | succ k ih =>
    obtain ⟨p, close, released, lines, he⟩ | hstop := goes_or_stops s
    · rw [runTeardown_of_goes he, ih, rstn_teardownStep]
    · rw [runTeardown_of_stops hstop, rstn_teardownStep]

/-! ## The commands that carry a teardown on -/

theorem exec_closeSession (s : State) (pause : Option Nat) : exec (.closeSession pause) s = execCloseSession pause s := rfl

/-- The engine's second stage carries a teardown on. -/
theorem exec_secondStage_of_teardown {s : State} (hlive : s.rstn = false) (h : InTeardown s) (pause : Option Nat) (early : Nat) :
    exec (.secondStageOperation .engine pause early) s = .next (State.runTeardown (teardownFuel pause) s) := by
  obtain ⟨p, close, released, lines, on, he⟩ := h
  rw [exec_secondStageOperation, execSecondStageOperation, State.live_of_not_rstn hlive]
  simp only [State.resumeEngine, he]

/-- What serving a request comes to is its own work or does not depend on it. -/
theorem serve_cases (c : Req) (s : State) :
    (∃ p params, ∀ k, s.serve c k = k p params s) ∨ ∀ k k', s.serve c k = s.serve c k' := by
  unfold State.serve
  split
  · split
    · split_ifs
      · exact .inr fun _ _ => rfl
      · exact .inr fun _ _ => rfl
      · exact .inr fun _ _ => rfl
      · exact .inl ⟨_, _, fun _ => rfl⟩
    · exact .inr fun _ _ => rfl
  · exact .inr fun _ _ => rfl

/-- The grant of a pending teardown carries it out (R146, R164). -/
theorem exec_portArbiterGrant_of_pending {s : State} {p : PortNo} (hlive : s.rstn = false) (hfree : s.engine = .free)
    (hnext : s.nextCandidate = some p) (hno : ∀ f, (s.port p).request ≠ .queued f) (pause : Option Nat) :
    exec (.portArbiterGrant pause) s = .next (State.runTeardown (teardownFuel pause)
      (State.beginTeardown p false { s.setPort p { s.port p with teardownPending := false } with pointer := p + 1 })) := by
  rw [exec_portArbiterGrant, execPortArbiterGrant, State.live_of_not_rstn hlive]
  refine congrArg Host.Outcome.next ?_
  split
  · next q _ hq =>
    cases Option.some.inj (hq.symm.trans hnext)
    dsimp only
    split
    · next f hf => exact absurd hf (hno f)
    · rfl
  · next h => exact (h p hfree hnext).elim

/-- A command with a pause operand carries a teardown on, or does not read the operand. -/
inductive Paused (s : State) (c : Option Nat → Instr) : Prop where
  | runs (t : State) (live : t.rstn = false) (teardown : InTeardown t)
      (h : ∀ pause, exec (c pause) s = .next (State.runTeardown (teardownFuel pause) t))
  | same (h : ∀ pause, exec (c pause) s = exec (c none) s)

/-- A teardown that the command carries on, after `k` operations and then to its end (R165). -/
theorem Paused.goes_on {s : State} {c : Option Nat → Instr} (h : Paused s c) (k : Nat) :
    ∃ t, exec (c (some k)) s = .next t ∧
      (exec (c none) s = .next t ∨ exec (.secondStageOperation .engine none) t = exec (c none) s) := by
  cases h with
  | same h =>
    obtain ⟨t, ht⟩ := exec_total (c none) s
    exact ⟨t, (h _).trans ht, .inl ht⟩
  | runs t hlive hin h =>
    refine ⟨State.runTeardown k t, h _, ?_⟩
    rcases runTeardown_paused k hin with hstopped | ⟨hin', hon⟩
    · exact .inl ((h none).trans (congrArg Host.Outcome.next hstopped))
    · refine .inr ?_
      rw [exec_secondStage_of_teardown ((rstn_runTeardown k t).trans hlive) hin', h none]
      exact congrArg Host.Outcome.next hon

theorem paused_closeSession (s : State) : Paused s .closeSession := by
  cases hlive : s.rstn with
  | true => exact .same fun pause => (State.live_of_rstn hlive _).trans (State.live_of_rstn hlive _).symm
  | false =>
    rcases serve_cases .closeSession s with ⟨p, params, h⟩ | h
    · refine .runs (s.beginTeardown p true) hlive ⟨_, _, _, _, _, rfl⟩ fun pause => ?_
      exact (State.live_of_not_rstn hlive _).trans (congrArg Host.Outcome.next (h _))
    · refine .same fun pause => ?_
      exact (State.live_of_not_rstn hlive _).trans ((congrArg Host.Outcome.next (h _ _)).trans (State.live_of_not_rstn hlive _).symm)

theorem paused_portArbiterGrant (s : State) : Paused s .portArbiterGrant := by
  cases hlive : s.rstn with
  | true =>
    refine .same fun pause => ?_
    rw [exec_portArbiterGrant, exec_portArbiterGrant, execPortArbiterGrant, execPortArbiterGrant, State.live_of_rstn hlive,
      State.live_of_rstn hlive]
  | false =>
    by_cases hpending : s.engine = .free ∧ ∃ p, s.nextCandidate = some p ∧ ∀ f, (s.port p).request ≠ .queued f
    · obtain ⟨hfree, p, hnext, hno⟩ := hpending
      refine .runs _ ?_ ?_ fun pause => exec_portArbiterGrant_of_pending hlive hfree hnext hno pause
      · exact hlive
      · exact ⟨_, _, _, _, _, rfl⟩
    · refine .same fun pause => ?_
      rw [exec_portArbiterGrant, exec_portArbiterGrant, execPortArbiterGrant, execPortArbiterGrant, State.live_of_not_rstn hlive,
        State.live_of_not_rstn hlive]
      refine congrArg Host.Outcome.next ?_
      split
      · next p hfree hnext =>
        dsimp only
        split
        · rfl
        · next hno => exact absurd ⟨hfree, p, hnext, hno⟩ hpending
      · rfl

theorem paused_secondStage (s : State) : Paused s fun pause => .secondStageOperation .engine pause := by
  cases hlive : s.rstn with
  | true =>
    refine .same fun pause => ?_
    rw [exec_secondStageOperation, exec_secondStageOperation, execSecondStageOperation, execSecondStageOperation,
      State.live_of_rstn hlive, State.live_of_rstn hlive]
  | false =>
    by_cases hin : InTeardown s
    · exact .runs s hlive hin fun pause => exec_secondStage_of_teardown hlive hin pause 0
    · refine .same fun pause => ?_
      rw [exec_secondStageOperation, exec_secondStageOperation, execSecondStageOperation, execSecondStageOperation,
        State.live_of_not_rstn hlive, State.live_of_not_rstn hlive]
      refine congrArg Host.Outcome.next ?_
      dsimp only [State.resumeEngine]
      split
      · rfl
      · next p close released lines on he => exact absurd ⟨p, close, released, lines, on, he⟩ hin
      · rfl

/-- Settles O8: a teardown of any length is over within the operations of one run (`teardownLeft_le`), so that the two runs end alike. -/
theorem teardownPauseChangesNothing : Obligations.TeardownPauseChangesNothing := by
  rintro s k c (rfl | rfl | rfl)
  · exact (paused_closeSession s).goes_on k
  · exact (paused_portArbiterGrant s).goes_on k
  · exact (paused_secondStage s).goes_on k

end Sys2Proof.Claims
end

section
/-! SUPPORT. What a whole teardown leaves (section 9.3): each operation leaves `tornDown` as it is, up to the engine. -/

namespace Sys2Proof.Claims

open Sys2Proof.Machine

/-! ## What a teardown reads of a slot -/

/-- A slot's reservation without port `p` in its watcher set. -/
def unwatchedBy (p : PortNo) (r : Reservation) : Reservation := { r with watchers := r.watchers.set p false }

theorem unwatchedBy_unwatchedBy (p : PortNo) (r : Reservation) : unwatchedBy p (unwatchedBy p r) = unwatchedBy p r := by
  simp [unwatchedBy, Vector.set_set]

theorem unwatchedBy_of_not_watching {p : PortNo} {r : Reservation} (h : r.watchers[p] = false) : unwatchedBy p r = r := by
  have hw : r.watchers.set p false = r.watchers := by
    ext i hi
    rw [Vector.getElem_set]
    split
    · next hp => subst hp; exact h.symm
    · rfl
  rw [unwatchedBy, hw]

theorem ownsArmed_eq (s : State) (p : PortNo) (n : SlotNo) :
    ownsArmed s p n = (s.held n).any fun r => r.owner == p && r.run.armedDeadline.isSome := by
  rw [ownsArmed, owns_eq, armedAt_eq]; cases s.held n <;> simp

theorem ownsBound_eq (s : State) (p : PortNo) (l : LineNo) (n : SlotNo) :
    ownsBound s p l n = (s.held n).any fun r => r.owner == p && r.mode.line == some l := by
  unfold ownsBound; cases s.held n <;> rfl

/-- What a port that watches as `q` hears when port `p`'s slot `m`, with this reservation, is released (R13, R14). -/
def releaseHeard (now : TimeCount) (generation : Half) (p q : PortNo) (m : SlotNo) (held : Option Reservation) (x : HostPort) :
    HostPort :=
  match held with
  | some r =>
    if r.owner = p ∧ r.watchers[q] = true then
      x.arrive now { Notice.ofSlot .released m generation r now with watched := true }
    else x
  | none => x

/-- What port `q` hears of the release of slot `m`, if port `p` owns it. -/
def hearsRelease (s : State) (p q : PortNo) (x : HostPort) (m : SlotNo) : HostPort :=
  releaseHeard s.time (s.slot m).generation p q m (s.held m) x

theorem releaseHeard_unwatchedBy {p q : PortNo} (hq : q ≠ p) (now : TimeCount) (generation : Half) (m : SlotNo)
    (held : Option Reservation) (x : HostPort) :
    releaseHeard now generation p q m (held.map (unwatchedBy p)) x = releaseHeard now generation p q m held x := by
  cases held with
  | none => rfl
  | some r =>
    have hw : (unwatchedBy p r).watchers[q] = r.watchers[q] := by
      simp [unwatchedBy, Fin.val_ne_of_ne hq.symm]
    simp only [Option.map_some, releaseHeard, hw]
    rfl

theorem hearsRelease_of_not_owned {s : State} {p : PortNo} {m : SlotNo} (h : s.owns p m = false) (q : PortNo) (x : HostPort) :
    hearsRelease s p q x m = x := by
  unfold hearsRelease releaseHeard
  rw [owns_eq] at h
  cases hr : s.held m with
  | none => rfl
  | some r =>
    rw [hr] at h
    have ho : r.owner ≠ p := by simpa using h
    exact if_neg fun hh => ho hh.1

theorem ports_tornDown (s : State) (p : PortNo) :
    (tornDown s p).ports = Vector.ofFn fun q =>
      if q = p then { s.port p with session := .detached, notices := [], holdoffCounter := 0, attn := false }
      else (List.finRange 64).foldl (hearsRelease s p q) (s.port q) := rfl

/-- `tornDown` reads the slots of a state, and changes nothing but what slots, quotas, the queue, binding lists, the Line Monitor,
ports, authority and output lines hold. -/
theorem tornDown_congr {s t : State} {p : PortNo}
    (ht : ∃ slots quotas queue inputs monitor ports, t = { s with slots, quotas, queue, inputs, monitor, ports })
    (hslots : (tornDown t p).slots = (tornDown s p).slots) (hquotas : (tornDown t p).quotas = (tornDown s p).quotas)
    (hqueue : (tornDown t p).queue = (tornDown s p).queue) (hinputs : (tornDown t p).inputs = (tornDown s p).inputs)
    (hmonitor : (tornDown t p).monitor = (tornDown s p).monitor) (hports : (tornDown t p).ports = (tornDown s p).ports) :
    tornDown t p = tornDown s p := by
  obtain ⟨slots, quotas, queue, inputs, monitor, ports, rfl⟩ := ht
  have hframe : tornDown { s with slots, quotas, queue, inputs, monitor, ports } p =
      { tornDown s p with
        slots := (tornDown { s with slots, quotas, queue, inputs, monitor, ports } p).slots
        quotas := (tornDown { s with slots, quotas, queue, inputs, monitor, ports } p).quotas
        queue := (tornDown { s with slots, quotas, queue, inputs, monitor, ports } p).queue
        inputs := (tornDown { s with slots, quotas, queue, inputs, monitor, ports } p).inputs
        monitor := (tornDown { s with slots, quotas, queue, inputs, monitor, ports } p).monitor
        ports := (tornDown { s with slots, quotas, queue, inputs, monitor, ports } p).ports } := rfl
  rw [hframe, hslots, hquotas, hqueue, hinputs, hmonitor, hports]

/-- The phase of the Line Monitor once a record in hand passes these slots over (R111). -/
def passedOver (goes : SlotNo → Bool) : MonitorPhase → MonitorPhase
  | .ready => .ready
  | .applying rest held => .applying (rest.filter fun n => !goes n) held
  | .holding rest => .holding (rest.filter fun n => !goes n)

/-- The slots that leave the set of the record in hand (R111). -/
def goesWith (s : State) (p : PortNo) (n : SlotNo) : Bool :=
  match s.fifo.head? with
  | some rec => ownsBound s p rec.line n
  | none => false

theorem monitor_tornDown (s : State) (p : PortNo) : (tornDown s p).monitor = passedOver (goesWith s p) s.monitor := rfl

theorem passedOver_passedOver (f g : SlotNo → Bool) (m : MonitorPhase) :
    passedOver g (passedOver f m) = passedOver (fun n => f n || g n) m := by
  cases m <;> simp [passedOver, List.filter_filter, Bool.and_comm]

/-! ## A watcher removal -/

theorem slots_tornDown (s : State) (p : PortNo) :
    (tornDown s p).slots = Vector.ofFn fun n =>
      { generation := (s.slot n).generation, held := if s.owns p n then none else (s.held n).map (unwatchedBy p) } := rfl

/-- A reservation is read in `tornDown` but for port `p` among its watchers. -/
theorem tornDown_unwatched {s : State} {p : PortNo} {n : SlotNo} {r : Reservation} (hr : s.held n = some r) :
    tornDown (s.setHeld n (unwatchedBy p r)) p = tornDown s p := by
  have hheld (m : SlotNo) : (s.setHeld n (unwatchedBy p r)).held m = if m = n then (s.held m).map (unwatchedBy p) else s.held m := by
    rw [State.held_setHeld]; split
    · next h => subst h; rw [hr]; rfl
    · rfl
  have hread {α : Type} (f : Option Reservation → α) (hf : ∀ x, f (x.map (unwatchedBy p)) = f x) (m : SlotNo) :
      f ((s.setHeld n (unwatchedBy p r)).held m) = f (s.held m) := by
    rw [hheld]; split
    · exact hf _
    · rfl
  have howns (m : SlotNo) : (s.setHeld n (unwatchedBy p r)).owns p m = s.owns p m := by
    rw [owns_eq, owns_eq]
    exact hread (fun x => x.map (·.owner) == some p) (fun x => by cases x <;> rfl) m
  have harmed (m : SlotNo) : ownsArmed (s.setHeld n (unwatchedBy p r)) p m = ownsArmed s p m := by
    rw [ownsArmed_eq, ownsArmed_eq]
    exact hread (fun x => x.any fun r => r.owner == p && r.run.armedDeadline.isSome) (fun x => by cases x <;> rfl) m
  have hbound (l : LineNo) (m : SlotNo) : ownsBound (s.setHeld n (unwatchedBy p r)) p l m = ownsBound s p l m := by
    rw [ownsBound_eq, ownsBound_eq]
    exact hread (fun x => x.any fun r => r.owner == p && r.mode.line == some l) (fun x => by cases x <;> rfl) m
  have hgeneration (m : SlotNo) : ((s.setHeld n (unwatchedBy p r)).slot m).generation = (s.slot m).generation :=
    s.generation_setHeld ..
  have hcount : (s.setHeld n (unwatchedBy p r)).ownedCount p = s.ownedCount p := by simp only [State.ownedCount, howns]
  refine tornDown_congr ⟨_, _, _, _, _, _, rfl⟩ ?_ ?_ ?_ ?_ ?_ ?_
  · rw [slots_tornDown, slots_tornDown]
    refine congrArg Vector.ofFn (funext fun m => ?_)
    rw [howns, hgeneration]
    have := hread (fun x => x.map (unwatchedBy p)) (fun x => by cases x <;> simp [unwatchedBy_unwatchedBy]) m
    rw [this]
  · simp only [tornDown, hcount]; rfl
  · simp only [tornDown, harmed]; rfl
  · simp only [tornDown, hbound]; rfl
  · rw [monitor_tornDown, monitor_tornDown]
    refine congrArg (passedOver · s.monitor) (funext fun m => ?_)
    simp only [goesWith, hbound]; rfl
  · rw [ports_tornDown, ports_tornDown]
    refine congrArg Vector.ofFn (funext fun q => ?_)
    by_cases hq : q = p
    · rw [if_pos hq, if_pos hq]; rfl
    · have hhears : hearsRelease (s.setHeld n (unwatchedBy p r)) p q = hearsRelease s p q := by
        funext x m
        unfold hearsRelease
        rw [hgeneration]
        exact hread (fun y => releaseHeard s.time (s.slot m).generation p q m y x) (fun y => releaseHeard_unwatchedBy hq ..) m
      rw [if_neg hq, if_neg hq, hhears]; rfl

/-! ## A release -/

/-- A release in the words of the statements, its entry's leaving by the slot's own state (R11). -/
theorem release_eq_of_run (n : SlotNo) (r : Reservation) (s : State) :
    s.release n r = copies
      { leavesList { s with queue := s.queue.filter fun e => !(r.run.armedDeadline.isSome && decide (e.slot = n)) } n r.mode.line with
        slots := s.slots.set n { generation := (s.slot n).generation, held := none }
        quotas := s.quotas.set r.owner { s.quota r.owner with owned := (s.quota r.owner).owned - 1 } }
      (fun q => r.watchers[q]) fun _ => { plainNotice s .released n r s.time with watched := true } := by
  have harmed : s.removeArmed n r = { s with queue := s.queue.filter fun e => !(r.run.armedDeadline.isSome && decide (e.slot = n)) } := by
    unfold State.removeArmed
    cases r.run with
    | armed d w =>
      refine congrArg (fun queue => { s with queue }) (congrArg (List.filter · s.queue) (funext fun e => ?_))
      simp [Run.armedDeadline]
    | _ => simp [Run.armedDeadline]
  rw [release_eq, harmed]

theorem leavesList_monitor (s : State) (n : SlotNo) (line : Option LineNo) :
    (leavesList s n line).monitor =
      passedOver (fun m => decide (line.isSome ∧ (s.fifo.head?.map fun rec => rec.line) = line) && decide (m = n)) s.monitor := by
  unfold leavesList passedOver
  dsimp only
  split
  · next h => cases s.monitor <;> simp [h]
  · next h => cases s.monitor <;> simp [h]

theorem allSlots_split (n : SlotNo) : List.finRange 64 = (List.finRange 64).take n.val ++ n :: (List.finRange 64).drop (n.val + 1) := by
  have h : (List.finRange 64)[n.val]'(by simp) = n := by simp
  conv_lhs => rw [← List.take_append_drop n.val (List.finRange 64), List.drop_eq_getElem_cons (by simp), h]

/-- A fold in which `n` comes first of those that act, and another in which it does not act and its effect has been made before. -/
theorem foldl_finRange_first {β : Type} {f g : β → SlotNo → β} {n : SlotNo} (hlow : ∀ m, m < n → ∀ x, f x m = x)
    (hsame : ∀ m, m ≠ n → ∀ x, g x m = f x m) (hnone : ∀ x, g x n = x) (x : β) :
    (List.finRange 64).foldl g (f x n) = (List.finRange 64).foldl f x := by
  have hbefore (m : SlotNo) (hm : m ∈ (List.finRange 64).take n.val) : m < n := by
    obtain ⟨i, hi, rfl⟩ := List.mem_take_iff_getElem.1 hm
    rw [List.getElem_finRange]
    exact (Nat.lt_min.1 hi).1
  have hafter (m : SlotNo) (hm : m ∈ (List.finRange 64).drop (n.val + 1)) : m ≠ n := by
    obtain ⟨i, hi, rfl⟩ := List.mem_drop_iff_getElem.1 hm
    rw [List.getElem_finRange]
    intro h
    have hval : n.val + 1 + i = n.val := congrArg Fin.val h
    omega
  have hid {h : β → SlotNo → β} (hh : ∀ m, m < n → ∀ x, h x m = x) (x : β) :
      ((List.finRange 64).take n.val).foldl h x = x := by
    rw [List.foldl_ext h (fun x _ => x) x fun x m hm => hh m (hbefore m hm) x, List.foldl_fixed]
  rw [allSlots_split n, List.foldl_append, List.foldl_append, List.foldl_cons, List.foldl_cons, hid hlow,
    hid fun m hm x => (hsame m hm.ne x).trans (hlow m hm x), hnone]
  exact List.foldl_ext _ _ _ fun x m hm => hsame m (hafter m hm) x

theorem input_release (n : SlotNo) (r : Reservation) (s : State) (l : LineNo) :
    (s.release n r).input l =
      if r.mode.line = some l then { s.input l with bindings := (s.input l).bindings.filter fun m => m ≠ n } else s.input l := by
  have hinputs : (s.release n r).inputs = Vector.ofFn fun l =>
      if r.mode.line = some l then { s.input l with bindings := (s.input l).bindings.filter fun m => m ≠ n } else s.input l := by
    rw [release_eq_of_run]; rfl
  simp only [State.input, hinputs, Fin.getElem_fin, Vector.getElem_ofFn]

theorem monitor_release (n : SlotNo) (r : Reservation) (s : State) :
    (s.release n r).monitor = passedOver
      (fun m => decide (r.mode.line.isSome ∧ (s.fifo.head?.map fun rec => rec.line) = r.mode.line) && decide (m = n)) s.monitor := by
  have hleaves : (s.release n r).monitor = (leavesList s n r.mode.line).monitor := by rw [release_eq_of_run]; rfl
  rw [hleaves, leavesList_monitor]

theorem port_release (n : SlotNo) (r : Reservation) (s : State) (q : PortNo) :
    (s.release n r).port q =
      if r.watchers[q] = true then (s.port q).arrive s.time { plainNotice s .released n r s.time with watched := true }
      else s.port q := by
  rw [release_eq_of_run, port_copies]; rfl

/-- A release of the lowest-numbered slot of a port that watches none is a part of the port's teardown. -/
theorem tornDown_release {s : State} {n : SlotNo} {r : Reservation} (hr : s.held n = some r) (hw : r.watchers[r.owner] = false)
    (hlow : ∀ m, m < n → s.owns r.owner m = false) : tornDown (s.release n r) r.owner = tornDown s r.owner := by
  have hheld := puts_release s n r
  have hread (f : Option Reservation → Bool) (hf : f none = false) (m : SlotNo) :
      f ((s.release n r).held m) = (!decide (m = n) && f (s.held m)) := by
    rw [hheld m]; by_cases h : m = n <;> simp [h, hf]
  have howns (m : SlotNo) : (s.release n r).owns r.owner m = (!decide (m = n) && s.owns r.owner m) := by
    rw [owns_eq, owns_eq]
    exact hread (fun x => x.map (·.owner) == some r.owner) rfl m
  have harmed (m : SlotNo) : ownsArmed (s.release n r) r.owner m = (!decide (m = n) && ownsArmed s r.owner m) := by
    rw [ownsArmed_eq, ownsArmed_eq]
    exact hread (fun x => x.any fun r' => r'.owner == r.owner && r'.run.armedDeadline.isSome) rfl m
  have hbound (l : LineNo) (m : SlotNo) :
      ownsBound (s.release n r) r.owner l m = (!decide (m = n) && ownsBound s r.owner l m) := by
    rw [ownsBound_eq, ownsBound_eq]
    exact hread (fun x => x.any fun r' => r'.owner == r.owner && r'.mode.line == some l) rfl m
  have hgeneration (m : SlotNo) : ((s.release n r).slot m).generation = (s.slot m).generation := by
    rw [State.slot_release]; split
    · next h => subst h; rfl
    · rfl
  have hown : s.owns r.owner n = true := by rw [owns_eq, hr]; simp
  have hownArmed : ownsArmed s r.owner n = r.run.armedDeadline.isSome := by rw [ownsArmed_eq, hr]; simp
  have hownBound (l : LineNo) : ownsBound s r.owner l n = (r.mode.line == some l) := by rw [ownsBound_eq, hr]; simp
  have hcount : (s.release n r).ownedCount r.owner + 1 = s.ownedCount r.owner := by
    have := ownedCount_puts hheld r.owner
    rw [hown, howns] at this
    simpa using this
  refine tornDown_congr (by
    obtain ⟨queue, inputs, monitor, ports, slots, quotas, h⟩ := s.release_frame n r
    exact ⟨slots, quotas, queue, inputs, monitor, ports, h⟩) ?_ ?_ ?_ ?_ ?_ ?_
  · rw [slots_tornDown, slots_tornDown]
    refine congrArg Vector.ofFn (funext fun m => ?_)
    rw [howns, hgeneration, hheld m]
    by_cases hm : m = n
    · subst hm; simp [hown]
    · simp [hm]
  · have hquotas : (s.release n r).quotas =
        s.quotas.set r.owner { s.quota r.owner with owned := (s.quota r.owner).owned - 1 } := by rw [release_eq_of_run]; rfl
    have hquota : (s.release n r).quota r.owner = { s.quota r.owner with owned := (s.quota r.owner).owned - 1 } := by
      rw [State.quota, hquotas]; simp
    have hleft : (s.quota r.owner).owned - 1 - (s.release n r).ownedCount r.owner =
        (s.quota r.owner).owned - s.ownedCount r.owner := by omega
    simp only [tornDown, hquotas, hquota, Vector.set_set, hleft]
  · have hqueue : (s.release n r).queue = s.queue.filter fun e => !(r.run.armedDeadline.isSome && decide (e.slot = n)) := by
      rw [release_eq_of_run]; rfl
    simp only [tornDown, hqueue, harmed, List.filter_filter]
    refine List.filter_congr fun e _ => ?_
    by_cases he : e.slot = n <;> simp [he, hownArmed]
  · simp only [tornDown, input_release, hbound]
    refine congrArg Vector.ofFn (funext fun l => ?_)
    by_cases hl : r.mode.line = some l
    · rw [if_pos hl, List.filter_filter]
      refine congrArg (fun bindings => { s.input l with bindings }) (List.filter_congr fun m _ => ?_)
      by_cases hm : m = n
      · subst hm; simp [hownBound, hl]
      · simp [hm]
    · rw [if_neg hl]
      refine congrArg (fun bindings => { s.input l with bindings }) (List.filter_congr fun m _ => ?_)
      by_cases hm : m = n
      · subst hm; simp [hownBound, hl]
      · simp [hm]
  · have hfifo : (s.release n r).fifo = s.fifo := by
      obtain ⟨_, _, _, _, _, _, h⟩ := s.release_frame n r
      rw [h]
    rw [monitor_tornDown, monitor_tornDown, monitor_release, passedOver_passedOver]
    refine congrArg (passedOver · s.monitor) (funext fun m => ?_)
    simp only [goesWith, hfifo, hbound]
    cases s.fifo.head? with
    | none => cases r.mode.line <;> simp
    | some rec =>
      dsimp only
      by_cases hm : m = n
      · subst hm
        rw [hownBound]
        cases r.mode.line with
        | none => simp
        | some l =>
          by_cases hl : rec.line = l
          · simp [hl]
          · simp [hl, Ne.symm hl]
      · simp [hm]
  · have htime : (s.release n r).time = s.time := by
      obtain ⟨_, _, _, _, _, _, h⟩ := s.release_frame n r
      rw [h]
    rw [ports_tornDown, ports_tornDown]
    refine congrArg Vector.ofFn (funext fun q => ?_)
    by_cases hq : q = r.owner
    · rw [if_pos hq, if_pos hq, port_release, if_neg (by simp [hw])]
    rw [if_neg hq, if_neg hq]
    have hfirst : (s.release n r).port q = hearsRelease s r.owner q (s.port q) n := by
      rw [port_release]; simp only [hearsRelease, releaseHeard, hr, true_and]; rfl
    rw [hfirst]
    refine foldl_finRange_first (fun m hm x => hearsRelease_of_not_owned (hlow m hm) q x) (fun m hm x => ?_)
      (fun x => hearsRelease_of_not_owned (by simp [howns]) q x) _
    unfold hearsRelease
    rw [htime, hgeneration, hheld m, if_neg hm]

end Sys2Proof.Claims
end

section
/-! SUPPORT. A whole teardown, and a teardown operation by operation (section 9.3): O7. -/

namespace Sys2Proof.Claims

open Sys2Proof.Machine

/-! ## The other operations -/

theorem tornDown_authority {s : State} {p : PortNo} (h : s.authority = some p) :
    tornDown { s with authority := none } p = tornDown s p := by
  have hauth : (if s.authority = some p then none else s.authority) = if (none : Option PortNo) = some p then none else none := by
    rw [if_pos h]; rfl
  exact congrArg (fun authority => { tornDown s p with authority }) hauth.symm

/-- A line in `tornDown` (R119, R120, R164). -/
def linesFreed (s : State) (p : PortNo) : Vector OutputLine 8 :=
  Vector.ofFn fun (l : LineNo) => if (s.output l).claim = some p then (s.output l).free else s.output l

theorem tornDown_line {s : State} {p : PortNo} {l : LineNo} (h : (s.output l).claim = some p) :
    tornDown (s.setOutput l (s.output l).free) p = tornDown s p := by
  have hlines : linesFreed (s.setOutput l (s.output l).free) p = linesFreed s p := by
    refine congrArg Vector.ofFn (funext fun m => ?_)
    rw [State.output_setOutput]
    by_cases hm : m = l
    · subst hm; rw [if_pos rfl, if_pos h]; simp [OutputLine.free]
    · rw [if_neg hm]
  exact congrArg (fun outputs => { tornDown s p with outputs }) hlines

/-- The port that a teardown leaves, but for its request (R139, R164). -/
def portDetached (x : HostPort) : HostPort := { x with session := .detached, notices := [], holdoffCounter := 0, attn := false }

theorem drive_detached (x : HostPort) : HostPort.drive { x with session := .detached } = { x with session := .detached, attn := false } :=
  rfl

theorem portDetached_eq {x : HostPort} (hnotices : x.notices = []) (hcounter : x.holdoffCounter = 0) :
    portDetached x = { x with session := .detached, attn := false } := by
  rw [portDetached, ← hnotices, ← hcounter]

theorem slots_eq_ofFn (s : State) : s.slots = Vector.ofFn s.slot := by
  ext i hi : 1
  rw [Vector.getElem_ofFn]; rfl

theorem outputs_eq_ofFn (s : State) : s.outputs = Vector.ofFn s.output := by
  ext i hi : 1
  rw [Vector.getElem_ofFn]; rfl

/-- A port that holds nothing is but DETACHED by its teardown. -/
theorem tornDown_empty {s : State} {p : PortNo} (hauth : s.authority ≠ some p)
    (hslots : ∀ n, s.watches p n = false ∧ s.owns p n = false)
    (hlines : ∀ l, (s.output l).claim ≠ some p) : tornDown s p = s.setPort p (portDetached (s.port p)) := by
  have hheld (n : SlotNo) : (if s.owns p n then none else (s.held n).map (unwatchedBy p)) = s.held n := by
    obtain ⟨hw, ho⟩ := hslots n
    rw [ho]
    rw [watches_eq] at hw
    cases hr : s.held n with
    | none => rfl
    | some r =>
      rw [hr] at hw
      simp [unwatchedBy_of_not_watching hw]
  have hbound (l : LineNo) (n : SlotNo) : ownsBound s p l n = false := by
    have ho := (hslots n).2
    rw [owns_eq] at ho
    rw [ownsBound_eq]
    cases hr : s.held n with
    | none => rfl
    | some r => rw [hr] at ho; simp at ho ⊢; simp [ho]
  have harmed (n : SlotNo) : ownsArmed s p n = false := by rw [ownsArmed, (hslots n).2]; rfl
  have hgoes : goesWith s p = fun _ => false := funext fun n => by
    unfold goesWith; split
    · exact hbound _ n
    · rfl
  have hcount : s.ownedCount p = 0 := by simp [State.ownedCount, hslots]
  have h1 : (tornDown s p).slots = s.slots := by
    rw [slots_tornDown, slots_eq_ofFn s]
    exact congrArg Vector.ofFn (funext fun n => by rw [hheld]; rfl)
  have h2 : (tornDown s p).quotas = s.quotas := by
    simp only [tornDown, hcount, Nat.sub_zero]
    exact Vector.set_getElem_self ..
  have h3 : (tornDown s p).queue = s.queue := by simp [tornDown, harmed]
  have h4 : (tornDown s p).inputs = s.inputs := by
    simp only [tornDown, hbound, Bool.not_false, List.filter_true]
    exact (inputs_eq_ofFn (s := s) fun _ => rfl).symm
  have h5 : (tornDown s p).monitor = s.monitor := by
    rw [monitor_tornDown, hgoes]; cases s.monitor <;> simp [passedOver]
  have h6 : (tornDown s p).ports = s.ports.set p (portDetached (s.port p)) := by
    rw [ports_tornDown]
    refine (ports_eq_ofFn (s := s) fun q => ?_).symm
    have hport : State.port { s with ports := s.ports.set p (portDetached (s.port p)) } q =
        if q = p then portDetached (s.port p) else s.port q := s.port_setPort p q _
    have hfold : (List.finRange 64).foldl (hearsRelease s p q) (s.port q) = s.port q := by
      rw [List.foldl_ext (hearsRelease s p q) (fun x _ => x) _ fun x m _ => hearsRelease_of_not_owned (hslots m).2 q x,
        List.foldl_fixed]
    rw [hport, hfold]; rfl
  have h7 : (tornDown s p).outputs = s.outputs := by
    rw [outputs_eq_ofFn s]
    exact congrArg Vector.ofFn (funext fun l => if_neg (hlines l))
  have h8 : (tornDown s p).authority = s.authority := if_neg hauth
  have hframe : tornDown s p = { s with
      authority := (tornDown s p).authority, slots := (tornDown s p).slots, quotas := (tornDown s p).quotas,
      queue := (tornDown s p).queue, inputs := (tornDown s p).inputs, monitor := (tornDown s p).monitor,
      outputs := (tornDown s p).outputs, ports := (tornDown s p).ports } := rfl
  refine hframe.trans ?_
  rw [h1, h2, h3, h4, h5, h6, h7, h8]
  rfl

/-- The end of a teardown that has left `t` (R163, R164). -/
def teardownAnswered (t : State) (p : PortNo) (close : Bool) (released lines : Nat) : State :=
  if close then t.complete p .ok [(t.port p).sessionNumber, BitVec.ofNat 8 released, BitVec.ofNat 8 lines]
  else { t with engine := .free }

theorem teardownAnswered_with_engine (t : State) (engine : Engine) (p : PortNo) (close : Bool) (released lines : Nat) :
    teardownAnswered { t with engine } p close released lines = teardownAnswered t p close released lines := by
  cases close <;> rfl

/-! ## A teardown that nothing makes wait -/

theorem Calm.of_held {s t : State} {p : PortNo} (hc : Calm s p) (hlive : t.rstn = s.rstn) (hi : t.insertion = s.insertion)
    (hheld : ∀ m, t.held m = none ∨ t.held m = s.held m ∨ t.held m = (s.held m).map (unwatchedBy p)) : Calm t p := by
  refine ⟨hlive.trans hc.live, fun m hm => ?_, hi.trans hc.quiet⟩
  rw [watches_eq, owns_eq] at hm
  rw [isFiring_eq]
  have hs := hc.settled m
  rw [watches_eq, owns_eq, isFiring_eq] at hs
  rcases hheld m with h | h | h
  · rw [h]; rfl
  · rw [h] at hm ⊢; exact hs hm
  · rw [h] at hm ⊢
    cases hr : s.held m with
    | none => rfl
    | some r =>
      rw [hr] at hm hs
      refine hs (.inr ?_)
      rcases hm with hw | ho
      · simp [unwatchedBy] at hw
      · exact ho

/-- Nothing makes the next operation of a calm teardown wait (R148). -/
theorem Calm.waitsFor_eq_none {s : State} {p : PortNo} (hc : Calm s p) {n : SlotNo} (h : s.teardownSlot p = some n) :
    s.waitsFor (some n) = none :=
  (s.waitsFor_eq_none n).2 ⟨hc.settled n (State.teardownSlot_some h), hc.quiet⟩

/-- An operation of a calm teardown after which `t` goes on: what the whole leaves, and what it counts, stays (R163, R164). -/
structure TeardownGoes (s t : State) (p : PortNo) (close : Bool) (released lines : Nat) : Prop where
  calm : Calm t p
  port : t.port p = s.port p
  torn : tornDown t p = { tornDown s p with engine := t.engine }
  counts : ∃ released' lines', t.engine = .teardown p close released' lines' none ∧
    released' + t.ownedCount p = released + s.ownedCount p ∧
    lines' + (t.claimedLines p).length = lines + (s.claimedLines p).length

theorem goes_unwatched {s : State} {p : PortNo} {n : SlotNo} {r : Reservation} (hc : Calm s p) (hr : s.held n = some r)
    (close : Bool) (released lines : Nat) :
    TeardownGoes s { s.setHeld n (unwatchedBy p r) with engine := .teardown p close released lines none } p close released lines := by
  have hheld (m : SlotNo) : (s.setHeld n (unwatchedBy p r)).held m = if m = n then some (unwatchedBy p r) else s.held m :=
    State.held_setHeld ..
  have hcount : (s.setHeld n (unwatchedBy p r)).ownedCount p = s.ownedCount p := by
    have := ownedCount_puts (puts_setHeld s n (unwatchedBy p r)) p
    rw [owns_eq, owns_eq, hheld n, if_pos rfl, hr] at this
    exact Nat.add_right_cancel this
  refine ⟨hc.of_held rfl rfl fun m => ?_, rfl, ?_, released, lines, rfl, by rw [← hcount]; rfl, rfl⟩
  · by_cases hm : m = n
    · subst hm; exact .inr (.inr ((hheld m).trans (by rw [if_pos rfl, hr]; rfl)))
    · exact .inr (.inl ((hheld m).trans (if_neg hm)))
  · exact congrArg (fun t => { t with engine := .teardown p close released lines none : State }) (tornDown_unwatched hr)

theorem goes_released {s : State} {n : SlotNo} {r : Reservation} (hc : Calm s r.owner) (hr : s.held n = some r)
    (hw : r.watchers[r.owner] = false) (hlow : ∀ m, m < n → s.owns r.owner m = false) (close : Bool) (released lines : Nat) :
    TeardownGoes s { s.release n r with engine := .teardown r.owner close (released + 1) lines none } r.owner close released lines := by
  have hheld := puts_release s n r
  have hcount : (s.release n r).ownedCount r.owner + 1 = s.ownedCount r.owner := by
    have := ownedCount_puts hheld r.owner
    rw [owns_eq, owns_eq, hheld.at, hr] at this
    simpa using this
  have hframe : (s.release n r).rstn = s.rstn ∧ (s.release n r).insertion = s.insertion ∧
      (s.release n r).claimedLines r.owner = s.claimedLines r.owner := by
    obtain ⟨_, _, _, _, _, _, h⟩ := s.release_frame n r
    rw [h]; exact ⟨rfl, rfl, rfl⟩
  obtain ⟨hlive, hi, hlines⟩ := hframe
  refine ⟨hc.of_held hlive hi fun m => ?_, ?_, ?_, released + 1, lines, rfl, ?_, congrArg (lines + ·.length) hlines⟩
  · by_cases hm : m = n
    · subst hm; exact .inl hheld.at
    · exact .inr (.inl (hheld.of_ne hm))
  · refine (port_release n r s r.owner).trans (if_neg (by simp [hw]))
  · exact congrArg (fun t => { t with engine := .teardown r.owner close (released + 1) lines none : State }) (tornDown_release hr hw hlow)
  · have hcount' : State.ownedCount { s.release n r with engine := .teardown r.owner close (released + 1) lines none } r.owner =
        (s.release n r).ownedCount r.owner := rfl
    omega

theorem goes_line {s : State} {p : PortNo} {l : LineNo} (hc : Calm s p) (h : (s.output l).claim = some p)
    (close : Bool) (released lines : Nat) :
    TeardownGoes s { s.setOutput l (s.output l).free with engine := .teardown p close released (lines + 1) none } p close released
      lines := by
  have hcount := claimedLines_freed h
  refine ⟨hc.of_held rfl rfl fun _ => .inr (.inl rfl), rfl, ?_, released, lines + 1, rfl, rfl, ?_⟩
  · exact congrArg (fun t => { t with engine := .teardown p close released (lines + 1) none : State }) (tornDown_line h)
  · have hcount' : State.claimedLines { s.setOutput l (s.output l).free with engine := .teardown p close released (lines + 1) none } p =
        (s.setOutput l (s.output l).free).claimedLines p := rfl
    rw [hcount']; omega

theorem goes_authority {s : State} {p : PortNo} (hc : Calm s p) (h : s.authority = some p) (close : Bool) (released lines : Nat) :
    TeardownGoes s { s with authority := none, engine := .teardown p close released lines none } p close released lines :=
  ⟨hc.of_held rfl rfl fun _ => .inr (.inl rfl), rfl,
    congrArg (fun t => { t with engine := .teardown p close released lines none : State }) (tornDown_authority h),
    released, lines, rfl, rfl, rfl⟩

/-- The next operation of a calm teardown: one after which it goes on, or the last, whose port holds nothing (R164). -/
theorem teardownStep_calm {s : State} {p : PortNo} {close : Bool} {released lines : Nat} {on : Option WaitFor}
    (he : s.engine = .teardown p close released lines on) (hc : Calm s p) :
    TeardownGoes s s.teardownStep p close released lines ∨
    (tornDown s p = s.setPort p (portDetached (s.port p)) ∧ s.ownedCount p = 0 ∧ s.claimedLines p = [] ∧
      s.teardownStep = s.endTeardown p close released lines) := by
  obtain ⟨hauth, hstep⟩ | ⟨hauth, ⟨n, hn, ⟨w, hw, -⟩ | ⟨-, hstep⟩⟩ | ⟨hnone, ⟨l, hl, hstep⟩ | ⟨hl, hstep⟩⟩⟩ :=
    State.teardownStep_cases he
  · rw [hstep]; exact .inl (goes_authority hc hauth ..)
  · rw [hc.waitsFor_eq_none hn] at hw; cases hw
  · obtain ⟨r, hr, ⟨-, hop⟩ | ⟨hw, rfl, -, hlow, hop⟩⟩ := teardownOp_cases hn
    · rw [hstep, hop]; exact .inl (goes_unwatched hc hr ..)
    · rw [hstep, hop]; exact .inl (goes_released hc hr hw hlow ..)
  · rw [hstep]; exact .inl (goes_line hc (claim_of_claimedLines hl) ..)
  · have hslots := State.teardownSlot_none hnone
    have hlines (l : LineNo) : (s.output l).claim ≠ some p := fun h => by
      have : l ∈ s.claimedLines p := by simp [State.claimedLines, allLines, h]
      rw [hl] at this; cases this
    exact .inr ⟨tornDown_empty hauth hslots hlines, by simp [State.ownedCount, hslots], hl, hstep⟩

/-- A calm teardown that may take every operation that is left comes to `tornDown` and its answer (R163, R164). -/
theorem runTeardown_calm (k : Nat) {s : State} {p : PortNo} {close : Bool} {released lines : Nat} {on : Option WaitFor}
    (he : s.engine = .teardown p close released lines on) (hc : Calm s p) (hnotices : (s.port p).notices = [])
    (hcounter : (s.port p).holdoffCounter = 0) (hk : teardownLeft s p ≤ k) :
    State.runTeardown k s =
      teardownAnswered (tornDown s p) p close (released + s.ownedCount p) (lines + (s.claimedLines p).length) := by
  induction k generalizing s released lines on with
  | zero => exact absurd hk (Nat.not_le.2 (Nat.succ_pos _))
  | succ k ih =>
    obtain ⟨hc', hport, htorn, released', lines', he', howned, hlines⟩ | ⟨htorn, howned, hlines, hstep⟩ := teardownStep_calm he hc
    · obtain ⟨-, hleft⟩ := teardownLeft_step he he'
      rw [runTeardown_of_goes he', ih he' hc' (hport ▸ hnotices) (hport ▸ hcounter) (by omega), htorn, howned, hlines,
        teardownAnswered_with_engine]
    · have hdrive : HostPort.drive { s.port p with session := .detached } = portDetached (s.port p) := by
        rw [drive_detached, portDetached_eq hnotices hcounter]
      have hended : s.endTeardown p close released lines = teardownAnswered (tornDown s p) p close released lines := by
        rw [State.endTeardown, hdrive, htorn]
        rfl
      have hstops : ∀ p' close' released' lines', s.teardownStep.engine ≠ .teardown p' close' released' lines' none := by
        rw [hstep, endTeardown_eq]; exact nofun
      rw [runTeardown_of_stops hstops, hstep, hended, howned, hlines]; rfl

/-! ## From the first step -/

theorem beginTeardown_eq_begun (s : State) (p : PortNo) (close : Bool) : s.beginTeardown p close = begun s p close := rfl

theorem tornDown_with_engine (s : State) (engine : Engine) (p : PortNo) :
    tornDown { s with engine } p = { tornDown s p with engine } := rfl

/-- What a teardown leaves of its port does not depend on what the first step takes from the port (R139). -/
theorem tornDown_setPort (s : State) (p : PortNo) {x : HostPort} (hx : portDetached x = portDetached (s.port p)) :
    tornDown (s.setPort p x) p = tornDown s p := by
  have hports : (tornDown (s.setPort p x) p).ports = (tornDown s p).ports := by
    rw [ports_tornDown, ports_tornDown]
    refine congrArg Vector.ofFn (funext fun q => ?_)
    by_cases hq : q = p
    · subst hq
      rw [if_pos rfl, if_pos rfl, State.port_setPort_self]; exact hx
    · have hhears : hearsRelease (s.setPort p x) p q = hearsRelease s p q := rfl
      rw [if_neg hq, if_neg hq, State.port_setPort, if_neg hq, hhears]
  exact tornDown_congr ⟨s.slots, s.quotas, s.queue, s.inputs, s.monitor, _, rfl⟩ rfl rfl rfl rfl rfl hports

theorem port_tornDown (s : State) (p : PortNo) : (tornDown s p).port p = portDetached (s.port p) := by
  rw [State.port, ports_tornDown]; simp [portDetached]

/-- A calm teardown from its first step to its answer (R163, R164). -/
theorem runTeardown_begun {s : State} {p : PortNo} (hc : Calm s p) (close : Bool) :
    State.runTeardown Config.teardownOps (begun s p close) =
      teardownAnswered (tornDown s p) p close (s.ownedCount p) (s.claimedLines p).length := by
  have hport : (begun s p close).port p =
      { s.port p with session := .closing, notices := [], holdoffCounter := 0, attn := false } := State.port_setPort_self ..
  have htorn : tornDown (begun s p close) p = { tornDown s p with engine := .teardown p close 0 0 none } := by
    have hkept := tornDown_setPort s p
      (x := { s.port p with session := .closing, notices := [], holdoffCounter := 0, attn := false }) rfl
    rw [← hkept]
    exact tornDown_with_engine (s.setPort p _) _ p
  rw [runTeardown_calm Config.teardownOps (s := begun s p close) rfl (hc.of_held rfl rfl fun _ => .inr (.inl rfl))
    (by rw [hport]) (by rw [hport]) (teardownLeft_le ..), htorn, teardownAnswered_with_engine, Nat.zero_add, Nat.zero_add]
  rfl

/-- The answer of a teardown's CLOSE (R163). -/
theorem teardownAnswered_close {s : State} {p : PortNo} {params : List Byte}
    (h : (s.port p).request = .executing { code := 0x02, params }) (released lines : Nat) :
    teardownAnswered (tornDown s p) p true released lines =
      completed (tornDown s p) p .closeSession .ok [(s.port p).sessionNumber, BitVec.ofNat 8 released, BitVec.ofNat 8 lines] := by
  have hrequest : ((tornDown s p).port p).request = .executing { code := Req.closeSession.code, params } := by
    rw [port_tornDown]; exact h
  have hsession : ((tornDown s p).port p).sessionNumber = (s.port p).sessionNumber := by rw [port_tornDown]; rfl
  rw [teardownAnswered, if_pos rfl, hsession]
  exact complete_eq_completed hrequest _ _

/-! ## Operation by operation -/

section
variable {s : State} {p : PortNo} {close : Bool} {released lines : Nat} {on : Option WaitFor}

theorem teardownStep_of_authority (he : s.engine = .teardown p close released lines on) (h : s.authority = some p) :
    s.teardownStep = { s with authority := none, engine := .teardown p close released lines none } := by
  simp only [State.teardownStep, he, h, if_true]

theorem teardownStep_of_slot (he : s.engine = .teardown p close released lines on) (h : s.authority ≠ some p) {n : SlotNo}
    (hn : s.teardownSlot p = some n) :
    s.teardownStep = match s.waitsFor (some n) with
      | some w => { s with engine := .teardown p close released lines (some w) }
      | none => { (s.teardownOp p n).1 with engine := .teardown p close (released + (s.teardownOp p n).2) lines none } := by
  simp only [State.teardownStep, he, if_neg h, hn] <;> rfl

theorem teardownSlot_eq_none (h : ∀ n, s.watches p n = false ∧ s.owns p n = false) : s.teardownSlot p = none := by
  have hw : allSlots.find? (s.watches p) = none := List.find?_eq_none.2 fun n _ => by simp [(h n).1]
  have ho : allSlots.find? (s.owns p) = none := List.find?_eq_none.2 fun n _ => by simp [(h n).2]
  rw [State.teardownSlot, hw, ho]

theorem teardownStep_of_line (he : s.engine = .teardown p close released lines on) (h : s.authority ≠ some p)
    (hn : ∀ n, s.watches p n = false ∧ s.owns p n = false) {l : LineNo} (hl : (s.output l).claim = some p)
    (hlow : ∀ m : LineNo, m < l → (s.output m).claim ≠ some p) :
    s.teardownStep = { s.setOutput l (s.output l).free with engine := .teardown p close released (lines + 1) none } := by
  have hhead : (s.claimedLines p).head? = some l := by
    rw [State.claimedLines, List.head?_filter, allLines, ← Fin.find?_eq_find?_finRange, Fin.find?_eq_some_iff]
    exact ⟨by simp [hl], fun m hm => by simpa using hlow m hm⟩
  simp only [State.teardownStep, he, if_neg h, teardownSlot_eq_none hn, hhead]

theorem teardownStep_of_end (he : s.engine = .teardown p close released lines on) (h : s.authority ≠ some p)
    (hn : ∀ n, s.watches p n = false ∧ s.owns p n = false) (hl : ∀ l, (s.output l).claim ≠ some p) :
    s.teardownStep = s.endTeardown p close released lines := by
  have hhead : (s.claimedLines p).head? = none := by simp [State.claimedLines, hl]
  simp only [State.teardownStep, he, if_neg h, teardownSlot_eq_none hn, hhead]

/-- A teardown that pauses `k + 1` operations from now is one that pauses `k` operations from the next (R165). -/
theorem teardown_goes_on (hlive : s.rstn = false) (he : s.engine = .teardown p close released lines on) {t : State}
    {released' lines' : Nat} (hstep : s.teardownStep = t) (he' : t.engine = .teardown p close released' lines' none) (k : Nat) :
    ∃ u, exec (.secondStageOperation .engine (some (k + 1))) s = .next u ∧
      exec (.secondStageOperation .engine (some k)) t = .next u := by
  subst hstep
  refine ⟨State.runTeardown k s.teardownStep, ?_, ?_⟩
  · rw [exec_secondStage_of_teardown hlive ⟨_, _, _, _, _, he⟩]
    exact congrArg Host.Outcome.next (runTeardown_of_goes he' k)
  · exact exec_secondStage_of_teardown ((rstn_teardownStep s).trans hlive) ⟨_, _, _, _, _, he'⟩ _ _

/-- A teardown whose next operation is the last, or waits. -/
theorem exec_secondStage_of_stops (hlive : s.rstn = false) (he : s.engine = .teardown p close released lines on)
    (hstop : ∀ p close released lines, s.teardownStep.engine ≠ .teardown p close released lines none) {pause : Option Nat}
    (hpause : pause ≠ some 0) : exec (.secondStageOperation .engine pause) s = .next s.teardownStep := by
  obtain ⟨ops, hops⟩ : ∃ ops, teardownFuel pause = ops + 1 := by
    cases pause with
    | none => exact ⟨137, rfl⟩
    | some k => exact Nat.exists_eq_succ_of_ne_zero fun h => hpause (congrArg some h)
  rw [exec_secondStage_of_teardown hlive ⟨_, _, _, _, _, he⟩, hops, runTeardown_of_stops hstop]

end

/-- Settles O7: the whole teardown by `runTeardown_begun` and `runTeardown_calm`, and each operation by what `teardownStep` is. -/
theorem teardownReturnsEverything : Obligations.TeardownReturnsEverything := by
  intro s p held asked
  refine ⟨fun hc => ⟨fun h => ?_, fun hfree hnext hno => ?_, fun close released lines on params he hclose hnotices hcounter => ?_⟩,
    fun hlive => ⟨fun h => ?_, fun hfree hnext hno => ?_, fun close released lines on he => ?_⟩⟩
  · refine (h.live_serve _).trans (congrArg Host.Outcome.next ?_)
    exact (runTeardown_begun hc true).trans (teardownAnswered_close h.request ..)
  · refine (exec_portArbiterGrant_of_pending hc.live hfree hnext hno none).trans (congrArg Host.Outcome.next ?_)
    exact runTeardown_begun (s := asked) (hc.of_held rfl rfl fun _ => .inr (.inl rfl)) false
  · refine (exec_secondStage_of_teardown hc.live ⟨_, _, _, _, _, he⟩ none 0).trans (congrArg Host.Outcome.next ?_)
    refine (runTeardown_calm Config.teardownOps he hc hnotices hcounter (teardownLeft_le s p)).trans ?_
    cases close with
    | true => exact teardownAnswered_close (hclose rfl) ..
    | false => rfl
  · exact h.live_serve _
  · exact exec_portArbiterGrant_of_pending hlive hfree hnext hno (some 0)
  intro goesOn
  refine ⟨exec_secondStage_of_teardown hlive ⟨_, _, _, _, _, he⟩ _ _, fun hauth k => ?_,
    fun hauth => ⟨fun n hn => ?_, fun hslots => ?_⟩⟩
  · exact teardown_goes_on hlive he (teardownStep_of_authority he hauth) rfl k
  · have hstep := teardownStep_of_slot he hauth (teardownSlot_eq_some_iff.2 hn)
    have hwaits {w : WaitFor} (hw : s.waitsFor (some n) = some w) (pause : Option Nat) (hpause : pause ≠ some 0) :
        exec (.secondStageOperation .engine pause) s = .next { s with engine := .teardown p close released lines (some w) } := by
      rw [hw] at hstep
      rw [exec_secondStage_of_stops hlive he (by rw [hstep]; exact nofun) hpause, hstep]
    refine ⟨fun pause hpause hfiring => hwaits (State.waitsFor_of_isFiring hfiring) pause hpause,
      fun pause hpause hfiring hbusy => hwaits ?_ pause hpause, fun k r hr hfiring hquiet hentry => ?_⟩
    · simp [State.waitsFor, Option.filter, hfiring, Option.isSome_iff_ne_none.2 hbusy]
    · rw [(s.waitsFor_eq_none n).2 ⟨hfiring, hquiet⟩] at hstep
      by_cases hw : r.watchers[p] = true
      · have hop : s.teardownOp p n = (s.setHeld n { r with watchers := r.watchers.set p false }, 0) := by
          simp only [State.teardownOp, hr, if_pos hw]
        rw [hop] at hstep
        rw [if_pos hw]
        exact teardown_goes_on hlive he hstep rfl k
      · have hop : s.teardownOp p n = (s.release n r, 1) := by
          simp only [State.teardownOp, hr, if_neg hw]
        rw [hop, release_eq_freed hentry] at hstep
        rw [if_neg hw]
        exact teardown_goes_on hlive he hstep rfl k
  · refine ⟨fun l k hl hlow => teardown_goes_on hlive he (teardownStep_of_line he hauth hslots hl hlow) rfl k,
      fun k params hlines hclose => ?_⟩
    intro detached
    have hstep := teardownStep_of_end he hauth hslots hlines
    rw [exec_secondStage_of_stops hlive he (by rw [hstep, endTeardown_eq]; exact nofun) (by simp), hstep]
    refine congrArg Host.Outcome.next ?_
    rw [State.endTeardown, drive_detached]
    cases close with
    | true =>
      have hrequest : (detached.port p).request = .executing { code := Req.closeSession.code, params } := by
        rw [State.port_setPort_self]; exact hclose rfl
      have hsession : (detached.port p).sessionNumber = (s.port p).sessionNumber := by rw [State.port_setPort_self]
      rw [if_pos rfl, if_pos rfl]
      exact (congrArg (fun number => State.complete p .ok [number, BitVec.ofNat 8 released, BitVec.ofNat 8 lines] detached)
        hsession).trans (complete_eq_completed hrequest _ _)
    | false => rfl

end Sys2Proof.Claims
end
